-- ==== Sys2Proof/Word.lean ====
section
/-!
DEFINITION. The word types of the CORE: the widths the spec gives its registers and fields
(`00_scope.md` R4, R5). Every quantity is unsigned.
-/

namespace Sys2Proof

/-- A 4-bit field: a register number, a sprite height, a selector (`30_encoding.md` R71). -/
abbrev Nibble := BitVec 4

/-- An 8-bit value: a general register, a timer, a byte of memory, an immediate kk. -/
abbrev Byte := BitVec 8

/-- A 12-bit address immediate nnn (`30_encoding.md` R71). -/
abbrev Addr12 := BitVec 12

/-- A 16-bit value: I, PC, a stack slot, an instruction word. -/
abbrev Word := BitVec 16

/-- One pixel word of the frame buffer, 32 bits (`10_state.md` R26). -/
abbrev Pixel := BitVec 32

end Sys2Proof
end

