-- ==== Sys2Proof/Syntax.lean ====
section
/-!
DEFINITION. The 35 handlers of `30_encoding.md` R76, one constructor per mnemonic of
spec/opcode_table.json. The bits the decoder ignores (R75) and the y field of SHR and SHL, which is
no operand (R130, R132), are kept as plain data named `ign` or `y`, so that decoding loses no bit of the
word; no meaning reads them. `nop` keeps its whole word, which must be an unmapped slot (R78).
-/

namespace Sys2Proof

/-- An instruction of the CORE; the docstring of a constructor gives its row of R76. -/
inductive Instr where
  /-- Row 1, `0??0`: clear screen. -/
  | cls (ign : Byte)
  /-- Row 2, `0??E`: return. -/
  | ret (ign : Byte)
  /-- Row 3, `1nnn`: jump. -/
  | jp (nnn : Addr12)
  /-- Row 4, `2nnn`: call. -/
  | call (nnn : Addr12)
  /-- Row 5, `3xkk`: skip if Vx equals kk. -/
  | seImm (x : Nibble) (kk : Byte)
  /-- Row 6, `4xkk`: skip if Vx differs from kk. -/
  | sneImm (x : Nibble) (kk : Byte)
  /-- Row 7, `5xy?`: skip if Vx equals Vy. -/
  | seReg (x y ign : Nibble)
  /-- Row 8, `6xkk`: load immediate. -/
  | ldImm (x : Nibble) (kk : Byte)
  /-- Row 9, `7xkk`: add immediate, no flag. -/
  | addImm (x : Nibble) (kk : Byte)
  /-- Row 10, `8xy0`: register move. -/
  | ldReg (x y : Nibble)
  /-- Row 11, `8xy1`. -/
  | orReg (x y : Nibble)
  /-- Row 12, `8xy2`. -/
  | andReg (x y : Nibble)
  /-- Row 13, `8xy3`. -/
  | xorReg (x y : Nibble)
  /-- Row 14, `8xy4`: add registers, VF = carry. -/
  | addReg (x y : Nibble)
  /-- Row 15, `8xy5`: Vx - Vy, VF = not borrow. -/
  | sub (x y : Nibble)
  /-- Row 16, `8xy6`: shift Vx right; Vy is no operand. -/
  | shr (x y : Nibble)
  /-- Row 17, `8xy7`: Vy - Vx, VF = not borrow. -/
  | subn (x y : Nibble)
  /-- Row 18, `8xyE`: shift Vx left; Vy is no operand. -/
  | shl (x y : Nibble)
  /-- Row 19, `9xy?`: skip if Vx differs from Vy. -/
  | sneReg (x y ign : Nibble)
  /-- Row 20, `Annn`: I = nnn. -/
  | ldI (nnn : Addr12)
  /-- Row 21, `Bnnn`: jump to V0 + nnn. -/
  | jpV0 (nnn : Addr12)
  /-- Row 22, `Cxkk`: random byte and kk. -/
  | rnd (x : Nibble) (kk : Byte)
  /-- Row 23, `Dxyn`: draw sprite. -/
  | drw (x y n : Nibble)
  /-- Row 24, `Ex?E`: skip if key pressed. -/
  | skp (x ign : Nibble)
  /-- Row 25, `Ex?1`: skip if key not pressed. -/
  | sknp (x ign : Nibble)
  /-- Row 26, `Fx07`: Vx = DT. -/
  | ldVxDt (x : Nibble)
  /-- Row 27, `Fx0A`: wait for key. -/
  | ldVxK (x : Nibble)
  /-- Row 28, `Fx15`: DT = Vx. -/
  | ldDtVx (x : Nibble)
  /-- Row 29, `Fx18`: ST = Vx. -/
  | ldStVx (x : Nibble)
  /-- Row 30, `Fx1E`: I = I + Vx. -/
  | addI (x : Nibble)
  /-- Row 31, `Fx29`: I = address of the glyph of digit Vx. -/
  | ldF (x : Nibble)
  /-- Row 32, `Fx33`: store the BCD digits of Vx. -/
  | ldB (x : Nibble)
  /-- Row 33, `Fx55`, LD [I], Vx: register dump. -/
  | dump (x : Nibble)
  /-- Row 34, `Fx65`, LD Vx, [I]: register load. -/
  | load (x : Nibble)
  /-- Row 35: the no-op handler of every unmapped slot (R78); `op` is the whole word. -/
  | nop (op : Word)
  deriving DecidableEq, Repr

end Sys2Proof
end

