-- ==== Sys2Proof/WellFormed.lean ====
section
/-!
DEFINITION. Which terms of `Instr` are instructions of the CORE. The operand fields have their widths
by type and every value of each is legal (`30_encoding.md` R73), so the one check left is that the word
kept by `nop` is an unmapped slot (R78).
-/

namespace Sys2Proof

/-- `30_encoding.md` R78, the list of unmapped secondary slots: the top nibble is a family with a
secondary table and the selector (low nibble, or low byte in family 0xF) is none of the mapped ones. -/
def unmappedSlot (op : Word) : Bool :=
  let lo4 := op.toNat % 16
  let lo8 := op.toNat % 256
  match op.toNat / 4096 with
  | 0 => lo4 ∉ [0x0, 0xE]
  | 8 => lo4 ∉ [0x0, 0x1, 0x2, 0x3, 0x4, 0x5, 0x6, 0x7, 0xE]
  | 14 => lo4 ∉ [0xE, 0x1]
  | 15 => lo8 ∉ [0x07, 0x0A, 0x15, 0x18, 0x1E, 0x29, 0x33, 0x55, 0x65]
  | _ => false

/-- A well-formed instruction (R73, R78). -/
def Instr.wf : Instr → Bool
  | .cls _ | .ret _ | .jp _ | .call _ | .seImm _ _ | .sneImm _ _ | .seReg _ _ _ | .ldImm _ _ | .addImm _ _
  | .ldReg _ _ | .orReg _ _ | .andReg _ _ | .xorReg _ _ | .addReg _ _ | .sub _ _ | .shr _ _ | .subn _ _
  | .shl _ _ | .sneReg _ _ _ | .ldI _ | .jpV0 _ | .rnd _ _ | .drw _ _ _ | .skp _ _ | .sknp _ _ | .ldVxDt _
  | .ldVxK _ | .ldDtVx _ | .ldStVx _ | .addI _ | .ldF _ | .ldB _ | .dump _ | .load _ => true
  | .nop op => unmappedSlot op

end Sys2Proof
end

