-- ==== Sys2Proof/Decode.lean ====
section
/-!
DEFINITION. Decoding and encoding (`30_encoding.md` R70 to R78). `decode` is total on 16-bit words (R77)
and refuses none (R79); `decodeBytes` reads an instruction from bytes, high byte first (R53, R70), and
rejects by name only when there are fewer than two bytes. The numeric opcode assignment is the spec's
decision D1 (PRESUMED, unsafe; log 9).
-/

namespace Sys2Proof

/-- The family, `op[15:12]` (R71, R74). -/
def Word.family (op : Word) : Nibble := op.extractLsb' 12 4

/-- Field x, `op[11:8]` (R71). -/
def Word.x (op : Word) : Nibble := op.extractLsb' 8 4

/-- Field y, `op[7:4]` (R71). -/
def Word.y (op : Word) : Nibble := op.extractLsb' 4 4

/-- Field n, `op[3:0]` (R71): sprite height, or the selector of families 0, 8 and E (R75). -/
def Word.n (op : Word) : Nibble := op.extractLsb' 0 4

/-- Field kk, `op[7:0]` (R71): the immediate, or the selector of family F (R75). -/
def Word.kk (op : Word) : Byte := op.extractLsb' 0 8

/-- Field nnn, `op[11:0]` (R71). -/
def Word.nnn (op : Word) : Addr12 := op.extractLsb' 0 12

/-- Secondary table of family 0, by the low nibble; `op[11:4]` is ignored (R75). -/
def decodeFamily0 (op : Word) : Instr :=
  match (Word.n op).toNat with
  | 0x0 => .cls (op.extractLsb' 4 8)
  | 0xE => .ret (op.extractLsb' 4 8)
  | _ => .nop op

/-- Secondary table of family 8, by the low nibble (R75). -/
def decodeFamily8 (op : Word) : Instr :=
  match (Word.n op).toNat with
  | 0x0 => .ldReg (Word.x op) (Word.y op)
  | 0x1 => .orReg (Word.x op) (Word.y op)
  | 0x2 => .andReg (Word.x op) (Word.y op)
  | 0x3 => .xorReg (Word.x op) (Word.y op)
  | 0x4 => .addReg (Word.x op) (Word.y op)
  | 0x5 => .sub (Word.x op) (Word.y op)
  | 0x6 => .shr (Word.x op) (Word.y op)
  | 0x7 => .subn (Word.x op) (Word.y op)
  | 0xE => .shl (Word.x op) (Word.y op)
  | _ => .nop op

/-- Secondary table of family E, by the low nibble; `op[7:4]` is ignored (R75). -/
def decodeFamilyE (op : Word) : Instr :=
  match (Word.n op).toNat with
  | 0xE => .skp (Word.x op) (Word.y op)
  | 0x1 => .sknp (Word.x op) (Word.y op)
  | _ => .nop op

/-- Secondary table of family F, by the low byte (R75). -/
def decodeFamilyF (op : Word) : Instr :=
  match (Word.kk op).toNat with
  | 0x07 => .ldVxDt (Word.x op)
  | 0x0A => .ldVxK (Word.x op)
  | 0x15 => .ldDtVx (Word.x op)
  | 0x18 => .ldStVx (Word.x op)
  | 0x1E => .addI (Word.x op)
  | 0x29 => .ldF (Word.x op)
  | 0x33 => .ldB (Word.x op)
  | 0x55 => .dump (Word.x op)
  | 0x65 => .load (Word.x op)
  | _ => .nop op

/-- The decode function of R77: the primary table by the family. A 4-bit family is at most 15, so the
last arm is family F. -/
def decode (op : Word) : Instr :=
  match (Word.family op).toNat with
  | 0x0 => decodeFamily0 op
  | 0x1 => .jp (Word.nnn op)
  | 0x2 => .call (Word.nnn op)
  | 0x3 => .seImm (Word.x op) (Word.kk op)
  | 0x4 => .sneImm (Word.x op) (Word.kk op)
  | 0x5 => .seReg (Word.x op) (Word.y op) (Word.n op)
  | 0x6 => .ldImm (Word.x op) (Word.kk op)
  | 0x7 => .addImm (Word.x op) (Word.kk op)
  | 0x8 => decodeFamily8 op
  | 0x9 => .sneReg (Word.x op) (Word.y op) (Word.n op)
  | 0xA => .ldI (Word.nnn op)
  | 0xB => .jpV0 (Word.nnn op)
  | 0xC => .rnd (Word.x op) (Word.kk op)
  | 0xD => .drw (Word.x op) (Word.y op) (Word.n op)
  | 0xE => decodeFamilyE op
  | _ => decodeFamilyF op

/-- Why a byte list is not an instruction. -/
inductive DecodeError where
  /-- Fewer than the two bytes every instruction has (R70). -/
  | truncated
  deriving DecidableEq, Repr

/-- Read one instruction from bytes in address order, high byte first (R53), and give back the rest. -/
def decodeBytes : List Byte → Except DecodeError (Instr × List Byte)
  | hi :: lo :: rest => .ok (decode (hi ++ lo), rest)
  | _ => .error .truncated

/-- The word of an instruction, from the formats and selectors of R72 and R76. -/
def encode : Instr → Word
  | .cls ign => 0x0#4 ++ ign ++ 0x0#4
  | .ret ign => 0x0#4 ++ ign ++ 0xE#4
  | .jp nnn => 0x1#4 ++ nnn
  | .call nnn => 0x2#4 ++ nnn
  | .seImm x kk => 0x3#4 ++ x ++ kk
  | .sneImm x kk => 0x4#4 ++ x ++ kk
  | .seReg x y ign => 0x5#4 ++ x ++ y ++ ign
  | .ldImm x kk => 0x6#4 ++ x ++ kk
  | .addImm x kk => 0x7#4 ++ x ++ kk
  | .ldReg x y => 0x8#4 ++ x ++ y ++ 0x0#4
  | .orReg x y => 0x8#4 ++ x ++ y ++ 0x1#4
  | .andReg x y => 0x8#4 ++ x ++ y ++ 0x2#4
  | .xorReg x y => 0x8#4 ++ x ++ y ++ 0x3#4
  | .addReg x y => 0x8#4 ++ x ++ y ++ 0x4#4
  | .sub x y => 0x8#4 ++ x ++ y ++ 0x5#4
  | .shr x y => 0x8#4 ++ x ++ y ++ 0x6#4
  | .subn x y => 0x8#4 ++ x ++ y ++ 0x7#4
  | .shl x y => 0x8#4 ++ x ++ y ++ 0xE#4
  | .sneReg x y ign => 0x9#4 ++ x ++ y ++ ign
  | .ldI nnn => 0xA#4 ++ nnn
  | .jpV0 nnn => 0xB#4 ++ nnn
  | .rnd x kk => 0xC#4 ++ x ++ kk
  | .drw x y n => 0xD#4 ++ x ++ y ++ n
  | .skp x ign => 0xE#4 ++ x ++ ign ++ 0xE#4
  | .sknp x ign => 0xE#4 ++ x ++ ign ++ 0x1#4
  | .ldVxDt x => 0xF#4 ++ x ++ 0x07#8
  | .ldVxK x => 0xF#4 ++ x ++ 0x0A#8
  | .ldDtVx x => 0xF#4 ++ x ++ 0x15#8
  | .ldStVx x => 0xF#4 ++ x ++ 0x18#8
  | .addI x => 0xF#4 ++ x ++ 0x1E#8
  | .ldF x => 0xF#4 ++ x ++ 0x29#8
  | .ldB x => 0xF#4 ++ x ++ 0x33#8
  | .dump x => 0xF#4 ++ x ++ 0x55#8
  | .load x => 0xF#4 ++ x ++ 0x65#8
  | .nop op => op

/-- The high byte of a word, stored at the lower address (R70). -/
def Word.hi (op : Word) : Byte := op.extractLsb' 8 8

/-- The low byte of a word, stored at the higher address (R70). -/
def Word.lo (op : Word) : Byte := op.extractLsb' 0 8

/-- The two bytes of an instruction in address order (R70). -/
def encodeBytes (i : Instr) : List Byte := [Word.hi (encode i), Word.lo (encode i)]

/-- The instruction word whose bits, numbered as spec/opcode_table.json numbers them (bit 0 the least
significant bit of the one 16-bit word), are the low `nbits` bits of `w`; the bits above are 0. -/
def tableWord (nbits w : Nat) : Word := BitVec.ofNat 16 (w % 2 ^ nbits)

/-- What the decoder reads from the bytes of `tableWord nbits w`, laid out as the hardware stores them. -/
def decodeTableWord (nbits w : Nat) : Option Instr :=
  match decodeBytes [Word.hi (tableWord nbits w), Word.lo (tableWord nbits w)] with
  | .ok (i, _) => some i
  | .error _ => none

end Sys2Proof
end

