-- ==== Sys2Proof/Config.lean ====
section
/-!
DEFINITION. The implementation parameters (`00_scope.md` R4, with the value this hardware takes) and the
free values the spec leaves to nobody: the inputs of each Step (R150, R165) and the I that LD F leaves
for a digit above 15 (R142).
-/

namespace Sys2Proof

/-- `PROG_BASE`: reset PC and program load address (R4). -/
def Config.progBase : Nat := 0x200

/-- `PROG_MAX`: the largest program image in bytes (R4, R63). -/
def Config.progMax : Nat := 3584

/-- `FONT_BASE` (R4). -/
def Config.fontBase : Nat := 0x050

/-- `DISPLAY_W`. PRESUMED (the spec's D4, from general knowledge): unsafe, log 7. -/
abbrev Config.displayW : Nat := 64

/-- `DISPLAY_H`. PRESUMED (the spec's D4, from general knowledge): unsafe, log 7. -/
abbrev Config.displayH : Nat := 32

/-- The number of pixels of the frame buffer (R26). -/
abbrev Config.fbSize : Nat := Config.displayW * Config.displayH

/-- The 80 font bytes (`10_state.md` R35), glyph 0 from the document; glyphs 1 to F are PRESUMED (the
spec's D5, from general knowledge): unsafe, log 8. -/
def Config.font : List Byte :=
  [0xF0, 0x90, 0x90, 0x90, 0xF0] ++ [0x20, 0x60, 0x20, 0x20, 0x70] ++
  [0xF0, 0x10, 0xF0, 0x80, 0xF0] ++ [0xF0, 0x10, 0xF0, 0x10, 0xF0] ++
  [0x90, 0x90, 0xF0, 0x10, 0x10] ++ [0xF0, 0x80, 0xF0, 0x10, 0xF0] ++
  [0xF0, 0x80, 0xF0, 0x90, 0xF0] ++ [0xF0, 0x10, 0x20, 0x40, 0x40] ++
  [0xF0, 0x90, 0xF0, 0x90, 0xF0] ++ [0xF0, 0x90, 0xF0, 0x10, 0xF0] ++
  [0xF0, 0x90, 0xF0, 0x90, 0x90] ++ [0xE0, 0x90, 0xE0, 0x90, 0xE0] ++
  [0xF0, 0x80, 0x80, 0x80, 0xF0] ++ [0xE0, 0x90, 0x90, 0x90, 0xE0] ++
  [0xF0, 0x80, 0xF0, 0x80, 0xF0] ++ [0xF0, 0x80, 0xF0, 0x80, 0x80]

/-- `VF_ORDER` (D7): which of the two register writes of a flag-writing ALU instruction comes last. -/
inductive Config.VfOrder where
  /-- The flag is written last. -/
  | flagLast
  /-- The result is written last. -/
  | resultLast
  deriving DecidableEq, Repr

/-- The order this hardware takes (R4, R121, `90_conflicts.md` C1). DESIGN CHOICE (the spec's D7): unsafe, log 10. -/
def Config.vfOrder : Config.VfOrder := .flagLast

/-- `DRAW_EDGE` (D9): what happens to a sprite pixel past the right or the bottom edge. -/
inductive Config.DrawEdge where
  /-- It is dropped. -/
  | clip
  /-- It appears on the opposite side. -/
  | wrap
  deriving DecidableEq, Repr

/-- The edge rule this hardware takes (R4, R158, `90_conflicts.md` C3). DESIGN CHOICE (the spec's D9): unsafe, log 11. -/
def Config.drawEdge : Config.DrawEdge := .clip

/-- FREE VALUE: the key vector the input port shows after the n-th draw (R165: free from Step to Step,
under no law). DESIGN CHOICE in its form only: safe for a claim about one run, log 1. -/
opaque Config.keyInput : Nat → Word

/-- FREE VALUE: the random byte the input port shows after the n-th draw (R150: no relation between
draws). DESIGN CHOICE in its form only: safe for a claim about one run, log 1. -/
opaque Config.rndInput : Nat → Byte

/-- FREE VALUE: the I that LD F, Vx leaves when Vx > 15, at the n-th draw (R142, D12). DESIGN CHOICE in its
form only: safe for a claim about one run, log 3. -/
opaque Config.freeIndex : Nat → Word

end Sys2Proof
end

