-- ==== Sys2Proof/Machine/State.lean ====
section
/-!
DEFINITION. The architectural state of the CORE (`10_state.md` R20 to R33), plain data, its reset value
(R34, R205), the two causes of the one fault class (`60_exceptions.md` R185) and the refusal.
-/

namespace Sys2Proof.Machine

/-- MEM as (address, byte) pairs in one canonical form (`Memory.wf` of Machine/Ops.lean): addresses below
4096 strictly rising, no entry equal to the reset byte of its address (log 21). -/
abbrev Memory := List Host.Cell

/-- FB: `DISPLAY_W * DISPLAY_H` pixel words (`10_state.md` R26). -/
abbrev FrameBuffer := Vector Pixel Config.fbSize

/-- The causes of the stack-discipline violation (`60_exceptions.md` R185). The handler that raises one
records its code in the FAULT latch and answers a NEXT state (R188, log 4): `step` and `exec` answer
`.fault` on no path; `Safety.stepOrFault` answers it, as R188 recommends. -/
inductive Fault where
  /-- R186: RET with SP = 0. Raised by RET only. Safe: nothing but the latch changes. -/
  | stackUnderflow
  /-- R187: CALL with SP = 16. Raised by CALL only. Safe: nothing but the latch changes. -/
  | stackOverflow
  deriving DecidableEq, Repr

/-- Why the model gives no meaning. -/
inductive Refusal where
  /-- An instruction without a meaning. Raised by no arm of `exec`: every instruction has its meaning. Safe. -/
  | notModelled (mnemonic : String)
  deriving DecidableEq, Repr

/-- All the state of the CORE, the two input ports of a Step, and the model's own draw counter. -/
structure State where
  /-- V0 to VF (`10_state.md` R20, R21). -/
  v : Vector Byte 16
  /-- The index register I, 16 bits (R22). -/
  i : Word
  /-- The program counter, 16 bits (R23). -/
  pc : Word
  /-- The stack pointer, 0 to 16 (R24; log 22). -/
  sp : Fin 17
  /-- The 16 return-address slots (R24). -/
  stack : Vector Word 16
  /-- The delay timer (R25). -/
  dt : Byte
  /-- The sound timer (R25). -/
  st : Byte
  /-- The frame buffer (R26). -/
  fb : FrameBuffer
  /-- The 4096 bytes of memory (R27). -/
  mem : Memory
  /-- The fault latch (R29): 0 running, 1 StackUnderflow, 2 StackOverflow. -/
  fault : BitVec 2
  /-- INPUT: bit k is KEY[k] as the next Step samples it (R30, R165; log 1, log 2). -/
  key : Word
  /-- INPUT: RND as the next Step samples it (R31, R150; log 1, log 2). -/
  rnd : Byte
  /-- THE MODEL'S OWN: how many free values have been drawn (log 1, log 3). -/
  draws : Nat
  deriving DecidableEq, Repr

/-- Reset (`10_state.md` R34, `70_reset_and_hazards.md` R205). PC and the memory contents (the empty list:
every byte at its reset value) are the document's; the zeros of V, I, SP, STACK, DT, ST, FB and FAULT are the
spec's decisions D14, D15 (log 6). The inputs of the first Step are free values like those of every later one (R150,
R165; log 1, log 2), the draws of number 0. -/
def State.reset : State where
  v := Vector.replicate 16 0
  i := 0
  pc := BitVec.ofNat 16 Config.progBase
  sp := 0
  stack := Vector.replicate 16 0
  dt := 0
  st := 0
  fb := Vector.replicate Config.fbSize 0
  mem := []
  fault := 0
  key := Config.keyInput 0
  rnd := Config.rndInput 0
  draws := 1

/-- What the Execute phase and a Step answer. -/
abbrev Result := Host.Outcome State Fault Refusal

end Sys2Proof.Machine
end

