-- ==== Sys2Proof/Machine/Ops.lean ====
section
/-!
DEFINITION. The named operations over memory, registers, stack, timers, inputs and the fault latch. Each
piece of state has one home and every meaning reaches it through these.
-/

namespace Sys2Proof.Machine

/-! ## Memory (`20_memory.md`) -/

/-- R51: every address presented to MEM is reduced to 12 bits; wrap-around, never saturation (log 13). -/
def maskAddr (a : Nat) : Nat := a % 4096

/-- What a byte of memory nothing has written reads as: its reset contents (`10_state.md` R34, R35). -/
def resetByte (a : Nat) : Byte :=
  if Config.fontBase ≤ a ∧ a < Config.fontBase + 80 then Config.font.getD (a - Config.fontBase) 0 else 0

/-- The listed byte at an address, if there is one. -/
def Memory.find : Memory → Nat → Option Byte
  | [], _ => none
  | (k, b) :: rest, a => if k = a then some b else Memory.find rest a

/-- `MEM[a]` for an address already below 4096. -/
def Memory.get (m : Memory) (a : Nat) : Byte := (Memory.find m a).getD (resetByte a)

/-- The list without any cell for an address: the address then reads as its reset byte. -/
def Memory.erase : Memory → Nat → Memory
  | [], _ => []
  | (k, c) :: rest, a => if k = a then Memory.erase rest a else (k, c) :: Memory.erase rest a

/-- A cell put before the first one of a higher address. -/
def Memory.insert : Memory → Nat → Byte → Memory
  | [], a, b => [(a, b)]
  | (k, c) :: rest, a, b => if a < k then (a, b) :: (k, c) :: rest else (k, c) :: Memory.insert rest a b

/-- `MEM[a] <- b` for an address already below 4096: a byte equal to the reset byte is not listed, which keeps
the canonical form. -/
def Memory.put (m : Memory) (a : Nat) (b : Byte) : Memory :=
  if b = resetByte a then Memory.erase m a else Memory.insert (Memory.erase m a) a b

/-- `MemRead(addr, 1)` of `00_scope.md` R6 and `20_memory.md` R51. -/
def Memory.read (m : Memory) (a : Nat) : Byte := Memory.get m (maskAddr a)

/-- `MemWrite(addr, 1, v)` of R6 and R51. -/
def Memory.write (m : Memory) (a : Nat) (b : Byte) : Memory := Memory.put m (maskAddr a) b

/-- Every address of the list is at least `lo`, they rise strictly, stay below 4096, and no cell holds its
reset byte. -/
def Memory.wfFrom : Nat → Memory → Bool
  | _, [] => true
  | lo, (k, b) :: rest => decide (lo ≤ k) && decide (k < 4096) && decide (b ≠ resetByte k) && Memory.wfFrom (k + 1) rest

/-- The canonical form of a memory. -/
def Memory.wf (m : Memory) : Bool := Memory.wfFrom 0 m

/-- `MemRead` on the state. -/
def State.readMem (s : State) (a : Nat) : Byte := Memory.read s.mem a

/-- `MemWrite` on the state. -/
def State.writeMem (s : State) (a : Nat) (b : Byte) : State := { s with mem := Memory.write s.mem a b }

/-! ## Registers (`10_state.md` R20 to R25) -/

/-- `V[x]`. -/
def State.getV (s : State) (x : Nibble) : Byte := s.v[x.toNat]'x.isLt

/-- `V[x] <- b`. No register is hard-wired (R20). -/
def State.setV (s : State) (x : Nibble) (b : Byte) : State := { s with v := s.v.set x.toNat b x.isLt }

/-- `I <- w`. -/
def State.setI (s : State) (w : Word) : State := { s with i := w }

/-- `PC <- w`. -/
def State.setPc (s : State) (w : Word) : State := { s with pc := w }

/-- `PC <- (PC + 2) mod 65536`: the advance of every fetch and of a taken skip (`10_state.md` R23). -/
def State.advancePc (s : State) : State := s.setPc (s.pc + 2)

/-- `PC <- (PC - 2) mod 65536`: the rewind of wait-for-key (`47_keypad.md` R168). -/
def State.rewindPc (s : State) : State := s.setPc (s.pc - 2)

/-- `DT <- b`. -/
def State.setDt (s : State) (b : Byte) : State := { s with dt := b }

/-- `ST <- b`. -/
def State.setSt (s : State) (b : Byte) : State := { s with st := b }

/-- `FB <- f`, for a frame buffer computed from the old one. -/
def State.setFb (s : State) (f : FrameBuffer) : State := { s with fb := f }

/-! ## The stack (`10_state.md` R24) -/

/-- `STACK[SP] <- w; SP <- SP + 1`. Called only with SP < 16 (`41_control_transfer.md` R101). -/
def State.push (s : State) (w : Word) : State :=
  { s with stack := s.stack.setIfInBounds s.sp.val w, sp := s.sp + 1 }

/-- `STACK[SP - 1]`, the top. Called only with SP > 0 (R102). -/
def State.top (s : State) : Word := s.stack[s.sp.val - 1]?.getD 0

/-- `SP <- SP - 1`; the slot keeps its contents (R24). Called only with SP > 0 (R102). -/
def State.drop (s : State) : State := { s with sp := s.sp - 1 }

/-! ## Taking the fault (`60_exceptions.md` R188) -/

/-- The code of a cause in the FAULT latch (R186, R187). -/
def Fault.code : Fault → BitVec 2
  | .stackUnderflow => 1
  | .stackOverflow => 2

/-- The cause a FAULT latch names; 0 is running and 3 is never produced (`10_state.md` R29). -/
def faultCause (c : BitVec 2) : Option Fault :=
  if c = 1 then some .stackUnderflow else if c = 2 then some .stackOverflow else none

/-- `FAULT <- c`. -/
def State.setFault (s : State) (c : BitVec 2) : State := { s with fault := c }

/-- `raise <cause>` (R188), called by a handler before it has written anything (R189): of the Step so far
only the +2 of the fetch has happened, so undoing it restores every state element, and the latch takes the
code. Nothing is saved and control goes nowhere; the Step then ends without the tick (Machine/Cycle.lean).
There is no return from a fault (R190): only reset leaves it. DESIGN CHOICE: log 4. -/
def State.raise (s : State) (f : Fault) : State := s.rewindPc.setFault f.code

/-! ## The end of a Step -/

/-- One timer: `if T > 0 then T <- T - 1` (`48_timers.md` R175). -/
def tickTimer (t : Byte) : Byte := if t.toNat > 0 then t - 1 else t

/-- `Tick()` of R175: both timers, independently. -/
def State.tick (s : State) : State := { s with dt := tickTimer s.dt, st := tickTimer s.st }

/-- The host drives new inputs between two Steps (R165, R150): both ports take free values. Log 1. -/
def State.sampleInputs (s : State) : State :=
  { s with key := Config.keyInput s.draws, rnd := Config.rndInput s.draws, draws := s.draws + 1 }

/-- `I <- any 16-bit value` (`44_index_memory.md` R142): a free value, fresh at each execution. Log 3. -/
def State.drawIndex (s : State) : State :=
  { s with i := Config.freeIndex s.draws, draws := s.draws + 1 }

end Sys2Proof.Machine
end

