-- ==== Sys2Proof/Machine/Operands.lean ====
section
/-!
DEFINITION. The operand forms: zero-extended immediates (`30_encoding.md` R73), the one memory addressing
mode (`44_index_memory.md` R146), glyph addresses (R142), BCD digits (R143), key selection
(`47_keypad.md` R166, R168) and sprite geometry (`46_display.md` R155, R156).
-/

namespace Sys2Proof.Machine

/-- `zext_16(nnn)` (R73). -/
def target (nnn : Addr12) : Word := nnn.setWidth 16

/-- `zext_16` of a byte. -/
def wide (b : Byte) : Word := b.setWidth 16

/-- R146: the address `I + k`, formed without truncation; the access reduces it (R51). -/
def State.ea (s : State) (k : Nat) : Nat := s.i.toNat + k

/-- The address of the glyph of a digit: `0x0050 + 5 * zext_16(v)` (R142). -/
def glyphAddr (v : Byte) : Word := BitVec.ofNat 16 Config.fontBase + 5 * wide v

/-- R143: the hundreds digit, 0 to 2. -/
def bcdHundreds (v : Byte) : Byte := BitVec.ofNat 8 (v.toNat / 100)

/-- R143: the tens digit. -/
def bcdTens (v : Byte) : Byte := BitVec.ofNat 8 (v.toNat / 10 % 10)

/-- R143: the ones digit. -/
def bcdOnes (v : Byte) : Byte := BitVec.ofNat 8 (v.toNat % 10)

/-- `KEY_INDEX`: the low four bits of Vx (R166). DESIGN CHOICE (the spec's D11) for Vx > 15: unsafe, log 12. -/
def keyIndex (v : Byte) : Nibble := v.extractLsb' 0 4

/-- `KEY[k] == 1` in the vector this Step samples (R165). -/
def State.keyDown (s : State) (k : Nibble) : Bool := s.key.getLsbD k.toNat

/-- The smallest index with `KEY[k] == 1`, if a key is down (R168; lowest first is the spec's D10, log 15). -/
def State.firstKey (s : State) : Option Nibble :=
  ((List.range 16).map (BitVec.ofNat 4)).find? s.keyDown

/-- Pixel column `col` of a sprite row byte: bit `7 - col` (R156; the spec's D6, log 14). -/
def spriteBit (b : Byte) (col : Nat) : Bool := b.getLsbD (7 - col)

/-- The frame-buffer index of pixel (px, py), `py * W + px` (R155), or none where it is clipped (R158). The
other edge rule of `DRAW_EDGE` wraps it (D9). -/
def placePixel (px py : Nat) : Option Nat :=
  match Config.drawEdge with
  | .clip => if px < Config.displayW ∧ py < Config.displayH then some (py * Config.displayW + px) else none
  | .wrap => some (py % Config.displayH * Config.displayW + px % Config.displayW)

end Sys2Proof.Machine
end

