-- ==== Sys2Proof/Machine/Flags.lean ====
section
/-!
DEFINITION. The flag computations of the flag-writing instructions (`10_state.md` R21) and the order of
their two register writes (`43_alu.md` R121).
-/

namespace Sys2Proof.Machine

/-- VF, register 15 (R21). -/
def regVF : Nibble := 0xF

/-- The byte a flag is written as: 0x01 or 0x00, all eight bits (R21). -/
def flagByte (b : Bool) : Byte := if b then 0x01 else 0x00

/-- R128: carry out, from the full sum. -/
def carryOut (a b : Byte) : Bool := decide (a.toNat + b.toNat > 255)

/-- R129, R131: no borrow in `a - b`, that is `a ≥ b`. -/
def noBorrow (a b : Byte) : Bool := decide (a.toNat ≥ b.toNat)

/-- R130: the bit a right shift drops. -/
def shiftedOutLow (a : Byte) : Bool := a.getLsbD 0

/-- R132: the bit a left shift drops. -/
def shiftedOutHigh (a : Byte) : Bool := a.getLsbD 7

/-- R121: the result to Vx and the flag to VF, in the order of `VF_ORDER`; the sources were read before. -/
def State.setVWithFlag (s : State) (x : Nibble) (result : Byte) (flag : Bool) : State :=
  match Config.vfOrder with
  | .flagLast => (s.setV x result).setV regVF (flagByte flag)
  | .resultLast => (s.setV regVF (flagByte flag)).setV x result

end Sys2Proof.Machine
end

