-- ==== Sys2Proof/Machine/Alu.lean ====
section
/-!
DEFINITION. Register load and ALU instructions (`43_alu.md`). Sources are read from the state the handler
starts from, before any write (R121).
-/

namespace Sys2Proof.Machine

/-- LD Vx, kk, R122. -/
def execLdImm (x : Nibble) (kk : Byte) (s : State) : Result := .next (s.setV x kk)

/-- ADD Vx, kk, R123: modulo 256, no flag. -/
def execAddImm (x : Nibble) (kk : Byte) (s : State) : Result := .next (s.setV x (s.getV x + kk))

/-- LD Vx, Vy, R124. -/
def execLdReg (x y : Nibble) (s : State) : Result := .next (s.setV x (s.getV y))

/-- OR Vx, Vy, R125. -/
def execOr (x y : Nibble) (s : State) : Result := .next (s.setV x (s.getV x ||| s.getV y))

/-- AND Vx, Vy, R126. -/
def execAnd (x y : Nibble) (s : State) : Result := .next (s.setV x (s.getV x &&& s.getV y))

/-- XOR Vx, Vy, R127. -/
def execXor (x y : Nibble) (s : State) : Result := .next (s.setV x (s.getV x ^^^ s.getV y))

/-- ADD Vx, Vy, R128: the low 8 bits of the sum, VF = carry. -/
def execAddReg (x y : Nibble) (s : State) : Result :=
  .next (s.setVWithFlag x (s.getV x + s.getV y) (carryOut (s.getV x) (s.getV y)))

/-- SUB Vx, Vy, R129: Vx - Vy, VF = no borrow. -/
def execSub (x y : Nibble) (s : State) : Result :=
  .next (s.setVWithFlag x (s.getV x - s.getV y) (noBorrow (s.getV x) (s.getV y)))

/-- SHR Vx, R130: VF = the old bit 0. -/
def execShr (x : Nibble) (s : State) : Result :=
  .next (s.setVWithFlag x (s.getV x >>> 1) (shiftedOutLow (s.getV x)))

/-- SUBN Vx, Vy, R131: Vy - Vx, VF = no borrow. -/
def execSubn (x y : Nibble) (s : State) : Result :=
  .next (s.setVWithFlag x (s.getV y - s.getV x) (noBorrow (s.getV y) (s.getV x)))

/-- SHL Vx, R132: VF = the old bit 7. -/
def execShl (x : Nibble) (s : State) : Result :=
  .next (s.setVWithFlag x (s.getV x <<< 1) (shiftedOutHigh (s.getV x)))

end Sys2Proof.Machine
end

