-- ==== Sys2Proof/Machine/Control.lean ====
section
/-!
DEFINITION. Control transfer (`41_control_transfer.md`) and the no-op handler (`40_step.md` R93). On entry
PC is the address of the instruction after the one executing (R91).
-/

namespace Sys2Proof.Machine

/-- JP nnn, R100. -/
def execJp (nnn : Addr12) (s : State) : Result := .next (s.setPc (target nnn))

/-- CALL nnn, R101: full stack raises StackOverflow before anything is written. -/
def execCall (nnn : Addr12) (s : State) : Result :=
  if s.sp = 16 then .next (s.raise .stackOverflow) else .next ((s.push s.pc).setPc (target nnn))

/-- RET, R102: empty stack raises StackUnderflow before anything is written. -/
def execRet (s : State) : Result :=
  if s.sp = 0 then .next (s.raise .stackUnderflow) else .next (s.drop.setPc s.top)

/-- JP V0, nnn, R103: a 16-bit sum, stored unmasked. -/
def execJpV0 (nnn : Addr12) (s : State) : Result := .next (s.setPc (wide (s.getV 0) + target nnn))

/-- NOP, R93: nothing. -/
def execNop (s : State) : Result := .next s

end Sys2Proof.Machine
end

