-- ==== Sys2Proof/Machine/Display.lean ====
section
/-!
DEFINITION. The frame-buffer instructions and the sprite collision engine (`46_display.md`).
-/

namespace Sys2Proof.Machine

/-- The word of a pixel that is on (R155). -/
def pixelOn : Pixel := 0xFFFFFFFF

/-- `FB[k]`; 0 past the end, which no instruction reaches. -/
def FrameBuffer.pixel (f : FrameBuffer) (k : Nat) : Pixel := f[k]?.getD 0

/-- `FB[k] <- FB[k] ^ 0xFFFFFFFF` (R155). -/
def FrameBuffer.toggle (f : FrameBuffer) (k : Nat) : FrameBuffer :=
  f.setIfInBounds k (FrameBuffer.pixel f k ^^^ pixelOn)

/-- Every pixel off (R157). -/
def FrameBuffer.blank : FrameBuffer := Vector.replicate Config.fbSize 0

/-- The frame-buffer indices DRW toggles, in the order of its loops (R158): for each row of the sprite at I
and each column with its bit set, the pixel's index unless it is clipped. -/
def State.spritePixels (s : State) (x0 y0 rows : Nat) : List Nat :=
  (List.range rows).flatMap fun row =>
    (List.range 8).filterMap fun col =>
      if spriteBit (s.readMem (s.ea row)) col then placePixel (x0 + col) (y0 + row) else none

/-- Toggle the pixels of a list one after another; the Bool is whether one of them was on when its turn
came (R158, the assignment `V[0xF] <- 0x01`). -/
def plotPixels (f : FrameBuffer) (hit : Bool) : List Nat → FrameBuffer × Bool
  | [] => (f, hit)
  | k :: rest => plotPixels (FrameBuffer.toggle f k) (hit || FrameBuffer.pixel f k != 0) rest

/-- CLS, R157. -/
def execCls (s : State) : Result := .next (s.setFb FrameBuffer.blank)

/-- DRW Vx, Vy, n, R158: the anchor wraps, the pixels clip, VF is 0x01 if a pixel went from on to off and
0x00 otherwise. -/
def execDrw (x y n : Nibble) (s : State) : Result :=
  let x0 := (s.getV x).toNat % Config.displayW
  let y0 := (s.getV y).toNat % Config.displayH
  let drawn := plotPixels s.fb false (s.spritePixels x0 y0 n.toNat)
  .next ((s.setFb drawn.1).setV regVF (flagByte drawn.2))

end Sys2Proof.Machine
end

