-- ==== Sys2Proof/Machine/Index.lean ====
section
/-!
DEFINITION. The index register and the memory instructions (`44_index_memory.md`). None changes I as a side
effect (R146; the spec's D19, log 18).
-/

namespace Sys2Proof.Machine

/-- LD I, nnn, R140. -/
def execLdI (nnn : Addr12) (s : State) : Result := .next (s.setI (target nnn))

/-- ADD I, Vx, R141: modulo 65536, no flag. -/
def execAddI (x : Nibble) (s : State) : Result := .next (s.setI (s.i + wide (s.getV x)))

/-- LD F, Vx, R142: the glyph of a digit 0 to 15; for a larger value I is a free value (log 3). -/
def execLdF (x : Nibble) (s : State) : Result :=
  if (s.getV x).toNat ≤ 15 then .next (s.setI (glyphAddr (s.getV x))) else .next s.drawIndex

/-- LD B, Vx, R143: hundreds, tens, ones at I, I + 1, I + 2. -/
def execLdB (x : Nibble) (s : State) : Result :=
  .next (((s.writeMem (s.ea 0) (bcdHundreds (s.getV x))).writeMem (s.ea 1) (bcdTens (s.getV x))).writeMem
    (s.ea 2) (bcdOnes (s.getV x)))

/-- `for i in 0..=(count - 1): MemWrite(I + i, 1, V[i])`, in that order (R144). -/
def State.dumpRegs (s : State) : Nat → State
  | 0 => s
  | k + 1 => (s.dumpRegs k).writeMem (s.ea k) (s.getV (BitVec.ofNat 4 k))

/-- LD [I], Vx, R144: the x + 1 registers V0 to Vx. -/
def execDump (x : Nibble) (s : State) : Result := .next (s.dumpRegs (x.toNat + 1))

/-- `for i in 0..=(count - 1): V[i] <- MemRead(I + i, 1)`, in that order (R145). -/
def State.loadRegs (s : State) : Nat → State
  | 0 => s
  | k + 1 => (s.loadRegs k).setV (BitVec.ofNat 4 k) (s.readMem (s.ea k))

/-- LD Vx, [I], R145: the x + 1 registers V0 to Vx. -/
def execLoad (x : Nibble) (s : State) : Result := .next (s.loadRegs (x.toNat + 1))

end Sys2Proof.Machine
end

