-- ==== Sys2Proof/Machine/Skip.lean ====
section
/-!
DEFINITION. The conditional skips on registers (`42_skip.md`).
-/

namespace Sys2Proof.Machine

/-- A taken skip adds 2 to the PC the fetch already advanced (R110 to R113, R166, R167). -/
def State.skipIf (s : State) (c : Bool) : State := if c then s.advancePc else s

/-- SE Vx, kk, R110. -/
def execSeImm (x : Nibble) (kk : Byte) (s : State) : Result := .next (s.skipIf (s.getV x == kk))

/-- SNE Vx, kk, R111. -/
def execSneImm (x : Nibble) (kk : Byte) (s : State) : Result := .next (s.skipIf (s.getV x != kk))

/-- SE Vx, Vy, R112. -/
def execSeReg (x y : Nibble) (s : State) : Result := .next (s.skipIf (s.getV x == s.getV y))

/-- SNE Vx, Vy, R113. -/
def execSneReg (x y : Nibble) (s : State) : Result := .next (s.skipIf (s.getV x != s.getV y))

end Sys2Proof.Machine
end

