-- ==== Sys2Proof/Machine/Keypad.lean ====
section
/-!
DEFINITION. The key-state instructions (`47_keypad.md`). They read the key vector this Step samples (R165).
-/

namespace Sys2Proof.Machine

/-- SKP Vx, R166. -/
def execSkp (x : Nibble) (s : State) : Result := .next (s.skipIf (s.keyDown (keyIndex (s.getV x))))

/-- SKNP Vx, R167. -/
def execSknp (x : Nibble) (s : State) : Result := .next (s.skipIf (!s.keyDown (keyIndex (s.getV x))))

/-- LD Vx, K, R168: with no key down PC goes back onto this instruction; else the lowest key. -/
def execLdVxK (x : Nibble) (s : State) : Result :=
  .next (match s.firstKey with
    | none => s.rewindPc
    | some k => s.setV x (k.setWidth 8))

end Sys2Proof.Machine
end

