-- ==== Sys2Proof/Machine/Random.lean ====
section
/-!
DEFINITION. The random instruction (`45_random.md`).
-/

namespace Sys2Proof.Machine

/-- RND Vx, kk, R151: the random byte this Step samples, and kk. -/
def execRnd (x : Nibble) (kk : Byte) (s : State) : Result := .next (s.setV x (s.rnd &&& kk))

end Sys2Proof.Machine
end

