-- ==== Sys2Proof/Machine/Cycle.lean ====
section
/-!
DEFINITION. The Step of `40_step.md` R90: fetch, PC advance, execute, timer tick; and the frozen machine (R94).
-/

namespace Sys2Proof.Machine

/-- The fetch of R90 and `20_memory.md` R53: `MemRead(PC, 1) :: MemRead(PC + 1, 1)`. -/
def State.fetchWord (s : State) : Word := s.readMem s.pc.toNat ++ s.readMem (s.pc.toNat + 1)

/-- R94: with FAULT non-zero a step strobe changes nothing. Log 5. -/
def frozenStep (s : State) : Result := .next s

/-- How a Step ends after its handler: a raised fault ends it at once (R188), otherwise both timers tick
(R90, R175) and the host may drive new inputs before the next Step (R165, R150). -/
def State.finish (t : State) : State := if t.fault ≠ 0 then t else t.tick.sampleInputs

/-- The running Step of R90: PC is advanced before the handler runs. -/
def runningStep (s : State) : Result :=
  match exec (decode s.fetchWord) s.advancePc with
  | .next t => .next t.finish
  | .fault f => .fault f
  | .refused r => .refused r

/-- `Step` of R90. -/
def cycle (s : State) : Result := if s.fault ≠ 0 then frozenStep s else runningStep s

/-- The state with an instruction word at PC, high byte first (R53), as the program loader leaves it, and the
machine running: a frozen one would fetch nothing (R94). Log 20. -/
def State.placeAtPc (s : State) (op : Word) : State :=
  ((s.writeMem s.pc.toNat (Word.hi op)).writeMem (s.pc.toNat + 1) (Word.lo op)).setFault 0

end Sys2Proof.Machine
end

