-- ==== Sys2Proof/Machine/Step.lean ====
section
/-!
DEFINITION. The step function of the machine, one Step per call (`40_step.md` R90, `10_state.md` R36), and the
placing of one instruction where the next Step fetches it.
-/

namespace Sys2Proof.Machine

/-- One Step. -/
def step (s : State) : Host.Outcome State Fault Refusal := cycle s

/-- `s` with the instruction whose table bits are `w` stored at PC, so that `step` fetches and runs it (log 20). -/
def State.withFetchWord (s : State) (nbits w : Nat) : State := s.placeAtPc (tableWord nbits w)

end Sys2Proof.Machine
end

