-- ==== Sys2Proof/Machine/Ports.lean ====
section
/-!
DEFINITION. The host's side of the CORE (`10_state.md` R36, `60_exceptions.md` R193 to R196): what the embedder does
to the machine and sees of it BETWEEN Steps. That it does so only between Steps, and loads only before the
first one, are premises on the host (R58, R63, R196; log 24).
-/

namespace Sys2Proof.Machine

/-- The inputs of the coming Step (R165, R150). -/
def Ports.setInputs (key : Word) (rnd : Byte) (s : State) : State := { s with key := key, rnd := rnd }

/-- `Step(KEY, RND)` of `40_step.md` R90: one Step under given inputs. -/
def Ports.stepWith (key : Word) (rnd : Byte) (s : State) : Result := step (Ports.setInputs key rnd s)

/-- `rst` asserted on a running machine (`70_reset_and_hazards.md` R205, R206): every state element of the CORE at its
reset value; the inputs are the host's and the draw counter is the model's, so both stay. -/
def Ports.reset (s : State) : State := { State.reset with key := s.key, rnd := s.rnd, draws := s.draws }

/-- The load port (`20_memory.md` R63): image byte k to `0x200 + k`, in order. -/
def Ports.loadFrom (s : State) (a : Nat) : List Byte → State
  | [] => s
  | b :: rest => Ports.loadFrom (s.writeMem a b) (a + 1) rest

/-- Loading a program image (R63, R207): an image longer than 3584 bytes is one the loader must reject; an
empty one is legal to the CORE. -/
def Ports.loadImage (image : List Byte) (s : State) : Option State :=
  if image.length ≤ Config.progMax then some (Ports.loadFrom s Config.progBase image) else none

/-- The boot sequence of R207 up to the first step strobe. -/
def Ports.boot (image : List Byte) : Option State := Ports.loadImage image State.reset

/-- The display read port (R194): `fb_data = FB[fb_addr]`; none where there is no such pixel. -/
def Ports.fbData (s : State) (addr : Nat) : Option Pixel := s.fb[addr]?

/-- `st_out` (R195). -/
def Ports.stOut (s : State) : Byte := s.st

/-- `sound_on`, the bit the audio collaborator may derive: ST > 0 (R195). -/
def Ports.soundOn (s : State) : Bool := decide (s.st.toNat > 0)

/-- `fault` (`10_state.md` R29). -/
def Ports.faultOut (s : State) : BitVec 2 := s.fault

end Sys2Proof.Machine
end

