-- ==== Sys2Proof/Safety.lean ====
section
/-!
DEFINITION. The terms in which claims about the machine are stated: what a state must satisfy, what a transition
leaves unchanged, which pixels a sprite covers, the fault-outcome reading of a Step, and a parked program.
-/

namespace Sys2Proof.Machine

/-- The invariant of the machine: memory in its canonical form; every pixel word one of the two the spec allows
(`10_state.md` R26, `46_display.md` R159); FAULT never 3 (R29); and a latched fault found its stack empty or full
(`60_exceptions.md` R186, R187, and R94: nothing has changed since). -/
def State.Inv (s : State) : Prop :=
  Memory.wf s.mem = true ∧
  (∀ k, FrameBuffer.pixel s.fb k = 0 ∨ FrameBuffer.pixel s.fb k = pixelOn) ∧
  s.fault ≠ 3 ∧
  (s.fault = 1 → s.sp.val = 0) ∧
  (s.fault = 2 → s.sp.val = 16)

/-- What of a state, its registers apart, an instruction may change. -/
inductive Field where
  /-- The index register I. -/
  | index
  /-- The program counter. -/
  | pc
  /-- The stack: SP and the slots. -/
  | stack
  /-- The delay timer. -/
  | dt
  /-- The sound timer. -/
  | st
  /-- The frame buffer. -/
  | fb
  /-- The memory. -/
  | mem
  /-- The fault latch. -/
  | fault
  /-- The model's own counter of free values. -/
  | draws
  deriving DecidableEq, Repr

/-- From `s` to `t` nothing changed but the registers of `R` and the fields of `F`; memory through its bytes, at
every address. -/
def Frame (R : List Nibble) (F : List Field) (s t : State) : Prop :=
  (∀ r, r ∉ R → t.getV r = s.getV r) ∧
  (Field.index ∉ F → t.i = s.i) ∧
  (Field.pc ∉ F → t.pc = s.pc) ∧
  (Field.stack ∉ F → t.sp = s.sp ∧ t.stack = s.stack) ∧
  (Field.dt ∉ F → t.dt = s.dt) ∧
  (Field.st ∉ F → t.st = s.st) ∧
  (Field.fb ∉ F → t.fb = s.fb) ∧
  (Field.mem ∉ F → ∀ a, t.readMem a = s.readMem a) ∧
  (Field.fault ∉ F → t.fault = s.fault) ∧
  (Field.draws ∉ F → t.draws = s.draws) ∧
  t.key = s.key ∧ t.rnd = s.rnd

/-- A timer value after one tick (`48_timers.md` R175), in numbers. -/
def ticked (t : Byte) : Nat := t.toNat - 1

/-- Pixel (px, py) lies under a set bit of the sprite of `rows` rows at I, drawn with its corner at (x0, y0):
bit 7 - col of the byte at I + row, col columns to the right and row rows down (`46_display.md` R156, R158). -/
def SpriteCovers (s : State) (x0 y0 rows px py : Nat) : Prop :=
  ∃ row < rows, ∃ col < 8, px = x0 + col ∧ py = y0 + row ∧ (s.readMem (s.i.toNat + row)).getLsbD (7 - col) = true

/-- The word of pixel (px, py), row-major (`46_display.md` R155). -/
def State.pixelAt (s : State) (px py : Nat) : Pixel := FrameBuffer.pixel s.fb (py * Config.displayW + px)

/-- The instruction the next Step runs (`40_step.md` R90). -/
def State.nextInstr (s : State) : Instr := decode s.fetchWord

/-- The reading of a Step that R188 recommends to a model: the Step that raises a fault, and every one after it,
answers the fault outcome that names the cause, so that a faulted state is never a final one (R94). -/
def stepOrFault (s : State) : Result :=
  match step s with
  | .next t =>
    match faultCause t.fault with
    | some f => .fault f
    | none => .next t
  | .fault f => .fault f
  | .refused r => .refused r

/-- A parked program: a running machine whose next instruction is a JP to its own address, the one end of a run
`40_step.md` R92 suggests. -/
def State.Parked (s : State) : Prop := s.fault = 0 ∧ ∃ nnn, s.nextInstr = .jp nnn ∧ target nnn = s.pc

end Sys2Proof.Machine
end

