-- ==== Sys2Proof/Certificates/Slice0/Obligations.lean ====
section
/-!
DEFINITION. The statements for the provers. A statement about one instruction is about its Execute phase (`40_step.md`
R90): `exec i s` with PC already advanced past the instruction; `StepRunsDecodedInstruction` carries it to a Step.
"The model's choice" names a log entry; "the spec's decision D<n>" is a row of `92_eei_decisions.md`.
-/

open Sys2Proof Sys2Proof.Machine

/-! ## Encoding -/

/-- Decoding the word of a well-formed instruction gives it back, ignored bits included, and so does decoding its two
bytes, whatever follows them. Rests on the opcode numbers of the spec's decision D1. -/
def Obligations.DecodeInvertsEncode : Prop :=
  ∀ (i : Instr) (rest : List Byte), i.wf = true →
    decode (encode i) = i ∧ decodeBytes (encodeBytes i ++ rest) = .ok (i, rest)

/-- Every 16-bit word decodes to a well-formed instruction whose encoding is that word: the decode function is total
and no two instructions share a word (`30_encoding.md` R77). -/
def Obligations.EncodeInvertsDecode : Prop :=
  ∀ op : Word, (decode op).wf = true ∧ encode (decode op) = op

/-- The fields of the word, in numbers, and how they overlap: `30_encoding.md` R71. -/
def Obligations.FieldsOfTheWord : Prop :=
  ∀ op : Word,
    (Word.family op).toNat = op.toNat / 4096 ∧
    (Word.x op).toNat = op.toNat / 256 % 16 ∧
    (Word.y op).toNat = op.toNat / 16 % 16 ∧
    (Word.n op).toNat = op.toNat % 16 ∧
    (Word.kk op).toNat = op.toNat % 256 ∧
    (Word.nnn op).toNat = op.toNat % 4096 ∧
    Word.nnn op = Word.x op ++ Word.y op ++ Word.n op ∧
    Word.kk op = Word.y op ++ Word.n op

/-- Words written out from the encodings of `30_encoding.md` R76 and classified as `95_test_vectors.md` 2.9 does. The
numbers are the spec's decision D1. -/
def Obligations.SpecWordsDecode : Prop :=
  decode 0x00E0 = .cls 0x0E ∧ decode 0x0FFE = .ret 0xFF ∧ decode 0x1ABC = .jp 0xABC ∧
  decode 0x332A = .seImm 3 0x2A ∧ decode 0x5AB7 = .seReg 0xA 0xB 7 ∧ decode 0x7103 = .addImm 1 0x03 ∧
  decode 0x8124 = .addReg 1 2 ∧ decode 0x8AB8 = .nop 0x8AB8 ∧ decode 0xA2F0 = .ldI 0x2F0 ∧
  decode 0xC30F = .rnd 3 0x0F ∧ decode 0xD125 = .drw 1 2 5 ∧ decode 0xEA91 = .sknp 0xA 9 ∧
  decode 0xF30A = .ldVxK 3 ∧ decode 0xF333 = .ldB 3 ∧ decode 0xFF65 = .load 0xF ∧ decode 0xF000 = .nop 0xF000

/-- The words that are NOP are exactly the unmapped slots `30_encoding.md` R78 lists, by family and selector. -/
def Obligations.UnmappedSlotsAreNop : Prop :=
  ∀ op : Word, decode op = .nop op ↔
    (Word.family op = 0x0 ∧ Word.n op ∉ [0x0#4, 0xE#4]) ∨
    (Word.family op = 0x8 ∧ Word.n op ∉ [0x0#4, 0x1#4, 0x2#4, 0x3#4, 0x4#4, 0x5#4, 0x6#4, 0x7#4, 0xE#4]) ∨
    (Word.family op = 0xE ∧ Word.n op ∉ [0xE#4, 0x1#4]) ∨
    (Word.family op = 0xF ∧
      Word.kk op ∉ [0x07#8, 0x0A#8, 0x15#8, 0x18#8, 0x1E#8, 0x29#8, 0x33#8, 0x55#8, 0x65#8])

/-- The bits the decoder ignores have no effect: two words that agree on the bits their family tests or uses run alike
(`30_encoding.md` R75 and its consequences; in family 8 the y field of SHR and SHL, `43_alu.md` R130, R132). -/
def Obligations.IgnoredBitsHaveNoEffect : Prop :=
  ∀ (op op' : Word) (s : State), Word.family op = Word.family op' → Word.n op = Word.n op' →
    (Word.family op = 0x0 ∨
      (Word.family op = 0xE ∧ Word.x op = Word.x op') ∨
      (Word.family op = 0x8 ∧ Word.x op = Word.x op' ∧ (Word.n op = 0x6 ∨ Word.n op = 0xE))) →
    exec (decode op) s = exec (decode op') s

/-- In families 5 and 9 the low nibble is ignored as well (`30_encoding.md` R75). -/
def Obligations.LowNibbleIgnoredInRegisterSkips : Prop :=
  ∀ (op op' : Word) (s : State), Word.family op = Word.family op' → (Word.family op = 0x5 ∨ Word.family op = 0x9) →
    Word.x op = Word.x op' → Word.y op = Word.y op' → exec (decode op) s = exec (decode op') s

/-! ## The Step -/

/-- The fetch is big-endian and each byte address is reduced modulo 4096 by itself: `20_memory.md` R53. -/
def Obligations.FetchIsBigEndian : Prop :=
  ∀ s : State, s.fetchWord.toNat =
    256 * (s.readMem (s.pc.toNat % 4096)).toNat + (s.readMem ((s.pc.toNat + 1) % 4096)).toNat

/-- A Step of a running machine is the decoded instruction, run with PC advanced by 2; if it raised nothing both timers
then tick and nothing else of the CORE changes, and if it raised a fault the Step ends there (`40_step.md` R90). That a
raised fault is a next state is the model's choice (log 4); the inputs and the draw counter after a Step are the
model's own (log 1). -/
def Obligations.StepRunsDecodedInstruction : Prop :=
  ∀ s : State, s.fault = 0 →
    ∃ t, exec (decode (s.readMem s.pc.toNat ++ s.readMem (s.pc.toNat + 1))) { s with pc := s.pc + 2 } = .next t ∧
      (t.fault ≠ 0 → step s = .next t) ∧
      (t.fault = 0 → ∃ u, step s = .next u ∧ u.dt.toNat = ticked t.dt ∧ u.st.toNat = ticked t.st ∧
        u = { t with dt := u.dt, st := u.st, key := u.key, rnd := u.rnd, draws := u.draws })

/-- Every Step of every state answers a next state: no encoding traps, no access faults, nothing is refused
(`30_encoding.md` R79, `60_exceptions.md` R199). That a stack violation does so too is the model's choice (log 4, on the spec's
decision D14), and so is that a Step of a faulted machine does (log 5, on its decision D23, `40_step.md` R94). -/
def Obligations.StepAlwaysAnswersNext : Prop := ∀ s : State, ∃ t, step s = .next t

/-- With FAULT non-zero a step strobe changes nothing (`40_step.md` R94, the spec's decisions D14, D23; log 5). -/
def Obligations.FaultedMachineIsFrozen : Prop := ∀ s : State, s.fault ≠ 0 → step s = .next s

/-- A Step of a running machine raises a fault exactly when it runs RET on an empty stack or CALL on a full one, and
then nothing but FAULT changes: PC, timers and all the rest keep their values (`60_exceptions.md` R186 to R189; the codes
and the precision are the spec's decision D14, the next state the model's choice, log 4). -/
def Obligations.StackViolationIsPrecise : Prop :=
  ∀ s t : State, s.fault = 0 → step s = .next t →
    ((∃ g, s.nextInstr = .ret g) ∧ s.sp.val = 0 → t = { s with fault := 1 }) ∧
    ((∃ nnn, s.nextInstr = .call nnn) ∧ s.sp.val = 16 → t = { s with fault := 2 }) ∧
    (¬ ((∃ g, s.nextInstr = .ret g) ∧ s.sp.val = 0) → ¬ ((∃ nnn, s.nextInstr = .call nnn) ∧ s.sp.val = 16) →
      t.fault = 0)

/-- The fault-outcome reading of a Step names the cause of a stack violation and is the Step itself otherwise
(`60_exceptions.md` R188; log 4). -/
def Obligations.FaultOutcomeNamesTheCause : Prop :=
  ∀ s : State, s.fault = 0 →
    (stepOrFault s = .fault .stackUnderflow ↔ (∃ g, s.nextInstr = .ret g) ∧ s.sp.val = 0) ∧
    (stepOrFault s = .fault .stackOverflow ↔ (∃ nnn, s.nextInstr = .call nnn) ∧ s.sp.val = 16) ∧
    (∀ t, stepOrFault s = .next t ↔ step s = .next t ∧ t.fault = 0)

/-- Every Step keeps the invariant: memory in its canonical form (the model's representation, log 21), pixels one of two
words (`10_state.md` R26), FAULT never 3, and a latched fault with its stack empty (1) or full (2). The three clauses on
FAULT rest on the latch, its codes and its precision, the spec's decision D14 (logs 4, 22), and on the freeze of a faulted
machine, its decision D23 (log 5). -/
def Obligations.StepKeepsInvariant : Prop := ∀ s t : State, s.Inv → step s = .next t → t.Inv

/-- The invariant holds after reset (FAULT 0 there is the spec's decision D14, log 4; the canonical form is log 21). -/
def Obligations.ResetMeetsInvariant : Prop := State.reset.Inv

/-- The reset values of `10_state.md` R34 and the 80 font bytes of R35, on the reset state and on any machine that is reset.
PC, the memory outside the font and glyph 0 are the document's; the zeros of the other elements are the spec's decisions
D14, D15 (log 6), glyphs 1 to F its decision D5 (log 8). -/
def Obligations.ResetValues : Prop :=
  ∀ s r : State, (r = State.reset ∨ r = Ports.reset s) →
    r.pc = 0x200 ∧ (∀ x, r.getV x = 0) ∧ r.i = 0 ∧ r.sp.val = 0 ∧ (∀ k < 16, r.stack[k]? = some 0) ∧
    r.dt = 0 ∧ r.st = 0 ∧ r.fault = 0 ∧ (∀ k < 2048, Ports.fbData r k = some 0) ∧
    (∀ a < 4096, (a < 0x050 ∨ 0x09F < a) → r.readMem a = 0) ∧
    (∀ k < 80, some (r.readMem (0x050 + k)) = (
      [0xF0, 0x90, 0x90, 0x90, 0xF0] ++ [0x20, 0x60, 0x20, 0x20, 0x70] ++
      [0xF0, 0x10, 0xF0, 0x80, 0xF0] ++ [0xF0, 0x10, 0xF0, 0x10, 0xF0] ++
      [0x90, 0x90, 0xF0, 0x10, 0x10] ++ [0xF0, 0x80, 0xF0, 0x10, 0xF0] ++
      [0xF0, 0x80, 0xF0, 0x90, 0xF0] ++ [0xF0, 0x10, 0x20, 0x40, 0x40] ++
      [0xF0, 0x90, 0xF0, 0x90, 0xF0] ++ [0xF0, 0x90, 0xF0, 0x10, 0xF0] ++
      [0xF0, 0x90, 0xF0, 0x90, 0x90] ++ [0xE0, 0x90, 0xE0, 0x90, 0xE0] ++
      [0xF0, 0x80, 0x80, 0x80, 0xF0] ++ [0xE0, 0x90, 0x90, 0x90, 0xE0] ++
      [0xF0, 0x80, 0xF0, 0x80, 0xF0] ++ [0xF0, 0x80, 0xF0, 0x80, 0x80] : List Byte)[k]?)

/-- A parked program (a JP to its own address) stays where it is: such a Step leaves V, I, PC, SP, STACK, FB, MEM and
FAULT unchanged, still ticks the timers, and the program is parked again (`40_step.md` R92). -/
def Obligations.ParkedProgramStaysParked : Prop :=
  ∀ s : State, s.Parked → ∃ t, step s = .next t ∧ t.Parked ∧
    t = { s with dt := t.dt, st := t.st, key := t.key, rnd := t.rnd, draws := t.draws } ∧
    t.dt.toNat = ticked s.dt ∧ t.st.toNat = ticked s.st

/-- In a Step that raises nothing, a timer that the instruction does not write goes down by exactly 1 if it is above 0
and stays 0 otherwise; DT and ST independently (`10_state.md` R25, `48_timers.md` R175; the rate is the spec's
decision D20). A timer written with v in this Step holds v - 1, or 0 for v = 0 (R179). -/
def Obligations.TimersTickOncePerStep : Prop :=
  ∀ s t : State, s.fault = 0 → step s = .next t → t.fault = 0 →
    ((∀ x, s.nextInstr ≠ .ldDtVx x) → t.dt.toNat = s.dt.toNat - 1) ∧
    ((∀ x, s.nextInstr ≠ .ldStVx x) → t.st.toNat = s.st.toNat - 1) ∧
    (∀ x, s.nextInstr = .ldDtVx x → t.dt.toNat = (s.getV x).toNat - 1) ∧
    (∀ x, s.nextInstr = .ldStVx x → t.st.toNat = (s.getV x).toNat - 1)

/-! ## Control transfer, NOP, skips -/

/-- JP nnn: `41_control_transfer.md` R100. -/
def Obligations.JpSetsPc : Prop :=
  ∀ (nnn : Addr12) (s : State), ∃ t, exec (.jp nnn) s = .next t ∧ t.pc.toNat = nnn.toNat ∧ Frame [] [.pc] s t

/-- JP V0, nnn: the 16-bit sum, unmasked (`41_control_transfer.md` R103; unmasked is the spec's decision D8). -/
def Obligations.JpV0AddsV0 : Prop :=
  ∀ (nnn : Addr12) (s : State), ∃ t, exec (.jpV0 nnn) s = .next t ∧
    t.pc.toNat = (s.getV 0).toNat + nnn.toNat ∧ Frame [] [.pc] s t

/-- CALL nnn below a full stack pushes the full 16-bit address of the instruction after it and jumps; on a full stack it
raises StackOverflow and has no other effect (`41_control_transfer.md` R101; the code is the spec's decision D14, the next
state the model's choice, log 4: the +2 of the fetch is undone, `60_exceptions.md` R188). -/
def Obligations.CallPushesAndJumps : Prop :=
  ∀ (nnn : Addr12) (s : State),
    (s.sp.val ≠ 16 → ∃ t, exec (.call nnn) s = .next t ∧ t.pc.toNat = nnn.toNat ∧ t.sp.val = s.sp.val + 1 ∧
      (∀ k < 16, t.stack[k]? = if k = s.sp.val then some s.pc else s.stack[k]?) ∧ Frame [] [.pc, .stack] s t) ∧
    (s.sp.val = 16 → ∃ t, exec (.call nnn) s = .next t ∧ t.fault = 2 ∧ t.pc = s.pc - 2 ∧ Frame [] [.pc, .fault] s t)

/-- RET with a return address held pops it, all 16 bits, and leaves the slot alone; on an empty stack it raises
StackUnderflow and has no other effect (`41_control_transfer.md` R102; code and next state as for CALL). -/
def Obligations.RetPopsIntoPc : Prop :=
  ∀ (g : Byte) (s : State),
    (s.sp.val ≠ 0 → ∃ t, exec (.ret g) s = .next t ∧ some t.pc = s.stack[s.sp.val - 1]? ∧
      t.sp.val = s.sp.val - 1 ∧ t.stack = s.stack ∧ Frame [] [.pc, .stack] s t) ∧
    (s.sp.val = 0 → ∃ t, exec (.ret g) s = .next t ∧ t.fault = 1 ∧ t.pc = s.pc - 2 ∧ Frame [] [.pc, .fault] s t)

/-- A RET that finds the stack as a CALL left it goes to the instruction after that CALL and restores SP
(`95_test_vectors.md` E6), whatever else has happened in between. -/
def Obligations.CallThenReturnRoundTrip : Prop :=
  ∀ (nnn : Addr12) (g : Byte) (s u : State), s.sp.val ≠ 16 → ∃ t w, exec (.call nnn) s = .next t ∧
    exec (.ret g) { u with sp := t.sp, stack := t.stack } = .next w ∧ w.pc = s.pc ∧ w.sp = s.sp

/-- NOP: `40_step.md` R93. The handler changes nothing; the Step around it advances PC by 2 and ticks the timers. -/
def Obligations.NopDoesNothing : Prop :=
  ∀ (op : Word) (s : State), exec (.nop op) s = .next s ∧
    (s.fault = 0 → s.nextInstr = .nop op → ∃ t, step s = .next t ∧ t.pc = s.pc + 2 ∧
      t.dt.toNat = ticked s.dt ∧ t.st.toNat = ticked s.st ∧
      t = { s with pc := t.pc, dt := t.dt, st := t.st, key := t.key, rnd := t.rnd, draws := t.draws })

/-- The four skips on registers: `42_skip.md` R110 to R113. PC goes up by 2, modulo 65536, when the comparison holds, and
nothing else changes either way. -/
def Obligations.SkipsCompareRegisters : Prop :=
  ∀ (x y ign : Nibble) (kk : Byte) (s : State),
    (∃ t, exec (.seImm x kk) s = .next t ∧ Frame [] [.pc] s t ∧
      t.pc.toNat = if (s.getV x).toNat = kk.toNat then (s.pc.toNat + 2) % 65536 else s.pc.toNat) ∧
    (∃ t, exec (.sneImm x kk) s = .next t ∧ Frame [] [.pc] s t ∧
      t.pc.toNat = if (s.getV x).toNat ≠ kk.toNat then (s.pc.toNat + 2) % 65536 else s.pc.toNat) ∧
    (∃ t, exec (.seReg x y ign) s = .next t ∧ Frame [] [.pc] s t ∧
      t.pc.toNat = if (s.getV x).toNat = (s.getV y).toNat then (s.pc.toNat + 2) % 65536 else s.pc.toNat) ∧
    (∃ t, exec (.sneReg x y ign) s = .next t ∧ Frame [] [.pc] s t ∧
      t.pc.toNat = if (s.getV x).toNat ≠ (s.getV y).toNat then (s.pc.toNat + 2) % 65536 else s.pc.toNat)

/-! ## Register load and ALU -/

/-- LD Vx, kk and ADD Vx, kk: `43_alu.md` R122, R123. No flag: VF changes only as the destination. -/
def Obligations.ImmediateFormsWriteVx : Prop :=
  ∀ (x : Nibble) (kk : Byte) (s : State),
    (∃ t, exec (.ldImm x kk) s = .next t ∧ t.getV x = kk ∧ Frame [x] [] s t) ∧
    (∃ t, exec (.addImm x kk) s = .next t ∧ (t.getV x).toNat = ((s.getV x).toNat + kk.toNat) % 256 ∧
      Frame [x] [] s t)

/-- Register move, OR, AND, XOR: `43_alu.md` R124 to R127, bit by bit. No flag: VF changes only as the destination. -/
def Obligations.MoveAndLogicWriteVx : Prop :=
  ∀ (x y : Nibble) (s : State),
    (∃ t, exec (.ldReg x y) s = .next t ∧ t.getV x = s.getV y ∧ Frame [x] [] s t) ∧
    (∃ t, exec (.orReg x y) s = .next t ∧
      (∀ j, (t.getV x).getLsbD j = ((s.getV x).getLsbD j || (s.getV y).getLsbD j)) ∧ Frame [x] [] s t) ∧
    (∃ t, exec (.andReg x y) s = .next t ∧
      (∀ j, (t.getV x).getLsbD j = ((s.getV x).getLsbD j && (s.getV y).getLsbD j)) ∧ Frame [x] [] s t) ∧
    (∃ t, exec (.xorReg x y) s = .next t ∧
      (∀ j, (t.getV x).getLsbD j = ((s.getV x).getLsbD j ^^ (s.getV y).getLsbD j)) ∧ Frame [x] [] s t)

/-- ADD Vx, Vy: `43_alu.md` R128. The low 8 bits of the sum to Vx, unless x is VF itself, and the carry of the full sum to
VF last (R121, `90_conflicts.md` C1; log 10). -/
def Obligations.AddRegistersSetsCarry : Prop :=
  ∀ (x y : Nibble) (s : State), ∃ t, exec (.addReg x y) s = .next t ∧
    (x ≠ 0xF → (t.getV x).toNat = ((s.getV x).toNat + (s.getV y).toNat) % 256) ∧
    (t.getV 0xF = if (s.getV x).toNat + (s.getV y).toNat > 255 then 0x01 else 0x00) ∧
    Frame [x, 0xF] [] s t

/-- SUB and SUBN: `43_alu.md` R129, R131. The difference modulo 256 to Vx, unless x is VF itself, and no-borrow (≥, not >)
to VF last (R121, `90_conflicts.md` C1, C10; log 10). -/
def Obligations.SubtractSetsNoBorrow : Prop :=
  ∀ (x y : Nibble) (s : State),
    (∃ t, exec (.sub x y) s = .next t ∧
      (x ≠ 0xF → (t.getV x).toNat = (256 + (s.getV x).toNat - (s.getV y).toNat) % 256) ∧
      (t.getV 0xF = if (s.getV x).toNat ≥ (s.getV y).toNat then 0x01 else 0x00) ∧ Frame [x, 0xF] [] s t) ∧
    (∃ t, exec (.subn x y) s = .next t ∧
      (x ≠ 0xF → (t.getV x).toNat = (256 + (s.getV y).toNat - (s.getV x).toNat) % 256) ∧
      (t.getV 0xF = if (s.getV y).toNat ≥ (s.getV x).toNat then 0x01 else 0x00) ∧ Frame [x, 0xF] [] s t)

/-- SHR and SHL: `43_alu.md` R130, R132. Vx shifted by one, unless x is VF itself, and the bit shifted out, as the byte
0x01 or 0x00, to VF last (R121, `90_conflicts.md` C1, C7; log 10). Vy is neither read nor written. -/
def Obligations.ShiftsMoveOneBitOut : Prop :=
  ∀ (x y : Nibble) (s : State),
    (∃ t, exec (.shr x y) s = .next t ∧ (x ≠ 0xF → (t.getV x).toNat = (s.getV x).toNat / 2) ∧
      (t.getV 0xF).toNat = (s.getV x).toNat % 2 ∧ Frame [x, 0xF] [] s t) ∧
    (∃ t, exec (.shl x y) s = .next t ∧ (x ≠ 0xF → (t.getV x).toNat = 2 * (s.getV x).toNat % 256) ∧
      (t.getV 0xF).toNat = (s.getV x).toNat / 128 ∧ Frame [x, 0xF] [] s t)

/-- The five flag writers with x = y = VF, and with y = VF alone, where the old VF is the second operand: rows of the
table of `43_alu.md` R133 (flag last is the spec's decision D7; log 10). -/
def Obligations.VfAsOperandTable : Prop :=
  ∀ (x : Nibble) (s : State),
    (∃ t, exec (.addReg 0xF 0xF) s = .next t ∧ (t.getV 0xF).toNat = (s.getV 0xF).toNat / 128) ∧
    (∃ t, exec (.sub 0xF 0xF) s = .next t ∧ t.getV 0xF = 1) ∧
    (∃ t, exec (.subn 0xF 0xF) s = .next t ∧ t.getV 0xF = 1) ∧
    (∃ t, exec (.shr 0xF 0xF) s = .next t ∧ (t.getV 0xF).toNat = (s.getV 0xF).toNat % 2) ∧
    (∃ t, exec (.shl 0xF 0xF) s = .next t ∧ (t.getV 0xF).toNat = (s.getV 0xF).toNat / 128) ∧
    (x ≠ 0xF → ∃ t, exec (.addReg x 0xF) s = .next t ∧
      256 * (t.getV 0xF).toNat + (t.getV x).toNat = (s.getV x).toNat + (s.getV 0xF).toNat) ∧
    (x ≠ 0xF → ∃ t, exec (.sub x 0xF) s = .next t ∧
      (t.getV x).toNat + (s.getV 0xF).toNat + 256 * (t.getV 0xF).toNat = (s.getV x).toNat + 256) ∧
    (x ≠ 0xF → ∃ t, exec (.subn x 0xF) s = .next t ∧
      (t.getV x).toNat + (s.getV x).toNat + 256 * (t.getV 0xF).toNat = (s.getV 0xF).toNat + 256)

/-! ## Index register and memory -/

/-- LD I, nnn and ADD I, Vx (`44_index_memory.md` R140, the spec's decision D2; R141, 16-bit wrap its decision D8). No flag. -/
def Obligations.IndexLoadsAndAdds : Prop :=
  ∀ (nnn : Addr12) (x : Nibble) (s : State),
    (∃ t, exec (.ldI nnn) s = .next t ∧ t.i.toNat = nnn.toNat ∧ Frame [] [.index] s t) ∧
    (∃ t, exec (.addI x) s = .next t ∧ t.i.toNat = (s.i.toNat + (s.getV x).toNat) % 65536 ∧ Frame [] [.index] s t)

/-- LD F, Vx runs for every Vx: for a digit 0 to 15 I is the address of its glyph; for a larger value nothing is said of I
(a free value: `44_index_memory.md` R142, the spec's decision D12; log 3) and nothing else changes. -/
def Obligations.LdFPointsAtGlyph : Prop :=
  ∀ (x : Nibble) (s : State), ∃ t, exec (.ldF x) s = .next t ∧
    ((s.getV x).toNat ≤ 15 → t.i.toNat = 0x050 + 5 * (s.getV x).toNat ∧ t.draws = s.draws) ∧
    Frame [] [.index, .draws] s t

/-- LD B, Vx: `44_index_memory.md` R143. Hundreds, tens, ones at I, I + 1, I + 2, each address reduced by itself; every
other byte, I and Vx unchanged. -/
def Obligations.BcdStoresThreeDigits : Prop :=
  ∀ (x : Nibble) (s : State), ∃ t, exec (.ldB x) s = .next t ∧
    (t.readMem (s.ea 0)).toNat = (s.getV x).toNat / 100 ∧
    (t.readMem (s.ea 1)).toNat = (s.getV x).toNat / 10 % 10 ∧
    (t.readMem (s.ea 2)).toNat = (s.getV x).toNat % 10 ∧
    (∀ a : Nat, (∀ k < 3, a % 4096 ≠ s.ea k % 4096) → t.readMem a = s.readMem a) ∧
    (∀ k, s.ea k = s.i.toNat + k) ∧ Frame [] [.mem] s t

/-- LD [I], Vx: `44_index_memory.md` R144. V[k] at I + k for k = 0 to x, each address reduced by itself; every other byte and
I unchanged. -/
def Obligations.DumpStoresV0ToVx : Prop :=
  ∀ (x : Nibble) (s : State), ∃ t, exec (.dump x) s = .next t ∧
    (∀ k : Nibble, k.toNat ≤ x.toNat → t.readMem (s.ea k.toNat) = s.getV k) ∧
    (∀ a : Nat, (∀ k ≤ x.toNat, a % 4096 ≠ s.ea k % 4096) → t.readMem a = s.readMem a) ∧
    (∀ k, s.ea k = s.i.toNat + k) ∧ Frame [] [.mem] s t

/-- LD Vx, [I]: `44_index_memory.md` R145. The byte at I + k to V[k] for k = 0 to x; the registers above x, memory and I
unchanged. -/
def Obligations.LoadFillsV0ToVx : Prop :=
  ∀ (x : Nibble) (s : State), ∃ t, exec (.load x) s = .next t ∧
    (∀ k : Nibble, k.toNat ≤ x.toNat → t.getV k = s.readMem (s.i.toNat + k.toNat)) ∧
    Frame ((List.range (x.toNat + 1)).map (BitVec.ofNat 4)) [] s t

/-- A register load that finds I and memory as a dump of the same registers left them restores those registers, wherever
I points (`44_index_memory.md` R144, R145, R146 with the spec's decision D19; `20_memory.md` R57). -/
def Obligations.DumpThenLoadRestoresRegisters : Prop :=
  ∀ (x : Nibble) (s u : State), ∃ t w, exec (.dump x) s = .next t ∧
    exec (.load x) { u with i := t.i, mem := t.mem } = .next w ∧
    (∀ k : Nibble, k.toNat ≤ x.toNat → w.getV k = s.getV k) ∧
    (∀ k : Nibble, x.toNat < k.toNat → w.getV k = u.getV k)

/-- The bytes a dump stores are the word the very next fetch reads when PC points at them (`20_memory.md` R60). -/
def Obligations.StoredBytesAreFetchedNext : Prop :=
  ∀ (x k : Nibble) (s t : State), s.fault = 0 → s.nextInstr = .dump x → step s = .next t →
    k.toNat + 1 ≤ x.toNat → t.pc.toNat % 4096 = (s.i.toNat + k.toNat) % 4096 →
    t.fetchWord = s.getV k ++ s.getV (k + 1)

/-- Two memories in canonical form that read alike at every address are the same data. -/
def Obligations.CanonicalMemoryIsDeterminedByItsBytes : Prop :=
  ∀ m m' : Memory, m.wf = true → m'.wf = true → (∀ a < 4096, Memory.read m a = Memory.read m' a) → m = m'

/-- Loading a program image of at most 3584 bytes puts byte k at 0x200 + k and changes no other byte and nothing else; a
longer image is rejected by the loader (`20_memory.md` R63). -/
def Obligations.LoadPortPlacesTheImage : Prop :=
  ∀ (image : List Byte) (s : State),
    (3584 < image.length → Ports.loadImage image s = none) ∧
    (image.length ≤ 3584 → ∃ t, Ports.loadImage image s = some t ∧
      (∀ k < image.length, some (t.readMem (0x200 + k)) = image[k]?) ∧
      (∀ a < 4096, (a < 0x200 ∨ 0x200 + image.length ≤ a) → t.readMem a = s.readMem a) ∧ Frame [] [.mem] s t)

/-! ## Random, display, keys, timers -/

/-- RND Vx, kk: `45_random.md` R151, for every value of the random input of the Step. -/
def Obligations.RndMasksTheDraw : Prop :=
  ∀ (x : Nibble) (kk : Byte) (s : State), ∃ t, exec (.rnd x kk) s = .next t ∧
    (∀ j, (t.getV x).getLsbD j = (s.rnd.getLsbD j && kk.getLsbD j)) ∧ Frame [x] [] s t

/-- CLS: `46_display.md` R157. Every one of the W * H pixel words is 0 as the host reads it, and nothing else changes, VF
included (W and H are parameters here; their values are not used). -/
def Obligations.ClsBlanksTheDisplay : Prop :=
  ∀ (g : Byte) (s : State), ∃ t, exec (.cls g) s = .next t ∧
    (∀ k < Config.displayW * Config.displayH, Ports.fbData t k = some 0x00000000) ∧ Frame [] [.fb] s t

/-- DRW Vx, Vy, n: `46_display.md` R158, pixel by pixel. The anchor is Vx mod 64, Vy mod 32, read before VF is written; a
pixel of the display under a set sprite bit is inverted and every other pixel is as before; VF is 1 if one of the
inverted pixels was on and 0 otherwise; sprite bits past the right or bottom edge do nothing (the spec's decision D9,
log 11; 64 x 32 is its decision D4, log 7; bit order D6, log 14). -/
def Obligations.DrwXorsTheClippedSprite : Prop :=
  ∀ (x y n : Nibble) (s : State),
    ∃ t, exec (.drw x y n) s = .next t ∧
      (∀ px < 64, ∀ py < 32,
        (SpriteCovers s ((s.getV x).toNat % 64) ((s.getV y).toNat % 32) n.toNat px py →
          t.pixelAt px py = s.pixelAt px py ^^^ 0xFFFFFFFF) ∧
        (¬ SpriteCovers s ((s.getV x).toNat % 64) ((s.getV y).toNat % 32) n.toNat px py →
          t.pixelAt px py = s.pixelAt px py)) ∧
      ((∃ px < 64, ∃ py < 32, SpriteCovers s ((s.getV x).toNat % 64) ((s.getV y).toNat % 32) n.toNat px py ∧
          s.pixelAt px py ≠ 0) → t.getV 0xF = 0x01) ∧
      ((¬ ∃ px < 64, ∃ py < 32, SpriteCovers s ((s.getV x).toNat % 64) ((s.getV y).toNat % 32) n.toNat px py ∧
          s.pixelAt px py ≠ 0) → t.getV 0xF = 0x00) ∧
      Frame [0xF] [.fb] s t

/-- Drawing the same sprite twice at the same position restores the frame buffer, and the second draw reports a collision
exactly when some pixel of the display under the sprite was not on before the first draw (`46_display.md` R159; the
registers of the second draw are any two that hold the same anchor then). -/
def Obligations.DrawingTwiceRestoresTheDisplay : Prop :=
  ∀ (x y x' y' n : Nibble) (s t : State), exec (.drw x y n) s = .next t →
    (t.getV x').toNat % 64 = (s.getV x).toNat % 64 → (t.getV y').toNat % 32 = (s.getV y).toNat % 32 →
    ∃ u, exec (.drw x' y' n) t = .next u ∧ u.fb = s.fb ∧
      (u.getV 0xF = 0x01 ↔ ∃ px < 64, ∃ py < 32,
        SpriteCovers s ((s.getV x).toNat % 64) ((s.getV y).toNat % 32) n.toNat px py ∧
        s.pixelAt px py ≠ 0xFFFFFFFF)

/-- SKP and SKNP: the key whose number is the low four bits of Vx decides the skip (`47_keypad.md` R166, R167; the low four
bits are the spec's decision D11 for Vx > 15, log 12). -/
def Obligations.KeySkipsTestOneKey : Prop :=
  ∀ (x ign : Nibble) (s : State),
    (∃ t, exec (.skp x ign) s = .next t ∧ Frame [] [.pc] s t ∧
      t.pc.toNat = if s.key.getLsbD ((s.getV x).toNat % 16) = true then (s.pc.toNat + 2) % 65536 else s.pc.toNat) ∧
    (∃ t, exec (.sknp x ign) s = .next t ∧ Frame [] [.pc] s t ∧
      t.pc.toNat = if s.key.getLsbD ((s.getV x).toNat % 16) = false then (s.pc.toNat + 2) % 65536 else s.pc.toNat)

/-- LD Vx, K: with every key up PC goes back by 2 and nothing else changes; with key k the lowest one down Vx becomes k and
nothing else changes (`47_keypad.md` R168; lowest first, level-sensitive, is the spec's decision D10, log 15). -/
def Obligations.WaitForKeyTakesTheLowest : Prop :=
  ∀ (x : Nibble) (s : State), ∃ t, exec (.ldVxK x) s = .next t ∧
    ((∀ k < 16, s.key.getLsbD k = false) → t.pc.toNat = (s.pc.toNat + 65534) % 65536 ∧ Frame [] [.pc] s t) ∧
    (∀ k < 16, s.key.getLsbD k = true → (∀ j < k, s.key.getLsbD j = false) →
      (t.getV x).toNat = k ∧ Frame [x] [] s t)

/-- LD Vx, DT; LD DT, Vx; LD ST, Vx: `48_timers.md` R176, R177, R178, before the tick of the same Step. -/
def Obligations.TimerMoves : Prop :=
  ∀ (x : Nibble) (s : State),
    (∃ t, exec (.ldVxDt x) s = .next t ∧ t.getV x = s.dt ∧ Frame [x] [] s t) ∧
    (∃ t, exec (.ldDtVx x) s = .next t ∧ t.dt = s.getV x ∧ Frame [] [.dt] s t) ∧
    (∃ t, exec (.ldStVx x) s = .next t ∧ t.st = s.getV x ∧ Frame [] [.st] s t)

/-! ## Rules about the whole machine -/

/-- Only CALL and RET reach the stack or raise a fault (`10_state.md` R24, `20_memory.md` R61, `60_exceptions.md` R186, R187). -/
def Obligations.OnlyCallAndRetReachTheStack : Prop :=
  ∀ (i : Instr) (s t : State), exec i s = .next t → (∀ nnn, i ≠ .call nnn) → (∀ g, i ≠ .ret g) →
    t.sp = s.sp ∧ t.stack = s.stack ∧ t.fault = s.fault

/-- Only CLS and DRW write the frame buffer; only LD B and LD [I] write memory (`10_state.md` R26, `20_memory.md` R50). -/
def Obligations.WritersOfDisplayAndMemory : Prop :=
  ∀ (i : Instr) (s t : State), exec i s = .next t →
    ((∀ g, i ≠ .cls g) → (∀ x y n, i ≠ .drw x y n) → t.fb = s.fb) ∧
    ((∀ x, i ≠ .ldB x) → (∀ x, i ≠ .dump x) → ∀ a, t.readMem a = s.readMem a)

/-- Only LD I, ADD I and LD F write I (`10_state.md` R22), and a handler changes DT or ST only in LD DT or LD ST (R25). -/
def Obligations.WritersOfIndexAndTimers : Prop :=
  ∀ (i : Instr) (s t : State), exec i s = .next t →
    ((∀ nnn, i ≠ .ldI nnn) → (∀ x, i ≠ .addI x) → (∀ x, i ≠ .ldF x) → t.i = s.i) ∧
    ((∀ x, i ≠ .ldDtVx x) → t.dt = s.dt) ∧ ((∀ x, i ≠ .ldStVx x) → t.st = s.st)

/-- After each of the six flag writers VF is 0x00 or 0x01; every other instruction changes VF only as an ordinary
destination, with x = 0xF (`10_state.md` R21). That a flag writer with x = 0xF leaves the flag is the spec's decision D7
(log 10). -/
def Obligations.WritersOfVf : Prop :=
  ∀ (i : Instr) (s t : State), exec i s = .next t →
    ((∃ x y, i = .addReg x y ∨ i = .sub x y ∨ i = .shr x y ∨ i = .subn x y ∨ i = .shl x y) ∨ (∃ x y n, i = .drw x y n) →
      t.getV 0xF = 0x00 ∨ t.getV 0xF = 0x01) ∧
    ((∀ x y, i ≠ .addReg x y ∧ i ≠ .sub x y ∧ i ≠ .shr x y ∧ i ≠ .subn x y ∧ i ≠ .shl x y) → (∀ x y n, i ≠ .drw x y n) →
      t.getV 0xF = s.getV 0xF ∨
      (∃ y kk, i ∈ [.ldImm 0xF kk, .addImm 0xF kk, .rnd 0xF kk, .ldReg 0xF y, .orReg 0xF y, .andReg 0xF y, .xorReg 0xF y,
        .ldVxDt 0xF, .ldVxK 0xF, .load 0xF]))

/-- The ways PC changes in the Execute phase, besides the four control transfers (`10_state.md` R23): not at all; up by 2
in one of the six skips; down by 2 in a wait-for-key. -/
def Obligations.WaysPcChanges : Prop :=
  ∀ (i : Instr) (s t : State), exec i s = .next t →
    t.pc = s.pc ∨ (∃ nnn, i = .jp nnn ∨ i = .call nnn ∨ i = .jpV0 nnn) ∨ (∃ g, i = .ret g) ∨
    (t.pc = s.pc + 2 ∧ ((∃ x kk, i = .seImm x kk ∨ i = .sneImm x kk) ∨ (∃ x y g, i = .seReg x y g ∨ i = .sneReg x y g) ∨
      (∃ x g, i = .skp x g ∨ i = .sknp x g))) ∨
    (t.pc = s.pc - 2 ∧ ∃ x, i = .ldVxK x)

/-- The key inputs are read by SKP, SKNP and LD Vx, K only, and the random input by RND only: no other instruction's effect
depends on them (`10_state.md` R30, `45_random.md` R150; the random byte as an input is the spec's decision D13, log 1). The two
runs compared are under the same free draw: for LD F with Vx > 15 both take the same free I, because the model's free value
depends on the draw counter alone (log 3), which R142, a draw afresh at each execution, does not itself give. -/
def Obligations.InputsReachOnlyTheirReaders : Prop :=
  ∀ (i : Instr) (s t : State) (key : Word) (rnd : Byte), exec i s = .next t →
    ((∀ x g, i ≠ .skp x g) → (∀ x g, i ≠ .sknp x g) → (∀ x, i ≠ .ldVxK x) →
      exec i { s with key := key } = .next { t with key := key }) ∧
    ((∀ x kk, i ≠ .rnd x kk) → exec i { s with rnd := rnd } = .next { t with rnd := rnd })

/-- The upper four bits of I are not observable: two states that differ only there step to states that differ only there
(`10_state.md` R22). The two runs compared are under the same free draws, since the states share the draw counter: for LD F
with Vx > 15 both take the same free I (log 3), which R142, a draw afresh at each execution, does not itself give, and
both find the same inputs afterwards (log 1). -/
def Obligations.UpperBitsOfIndexAreUnobservable : Prop :=
  ∀ (s : State) (j : Word), j.toNat % 4096 = s.i.toNat % 4096 → ∀ t, step s = .next t →
    ∃ t', step { s with i := j } = .next t' ∧ t'.i.toNat % 4096 = t.i.toNat % 4096 ∧ { t' with i := t.i } = t
end

