-- ==== Sys2Proof/Laws/State.lean ====
section
/-!
SUPPORT. One lemma per field per update of the state, and for the two readers `getV` and `readMem`, so that no
later proof unfolds a record update.
-/

namespace Sys2Proof.Machine

/-! ### setV -/

@[simp] theorem State.setV_v (s : State) (x : Nibble) (b : Byte) : (s.setV x b).v = s.v.set x.toNat b x.isLt := rfl
@[simp] theorem State.setV_i (s : State) (x : Nibble) (b : Byte) : (s.setV x b).i = s.i := rfl
@[simp] theorem State.setV_pc (s : State) (x : Nibble) (b : Byte) : (s.setV x b).pc = s.pc := rfl
@[simp] theorem State.setV_sp (s : State) (x : Nibble) (b : Byte) : (s.setV x b).sp = s.sp := rfl
@[simp] theorem State.setV_stack (s : State) (x : Nibble) (b : Byte) : (s.setV x b).stack = s.stack := rfl
@[simp] theorem State.setV_dt (s : State) (x : Nibble) (b : Byte) : (s.setV x b).dt = s.dt := rfl
@[simp] theorem State.setV_st (s : State) (x : Nibble) (b : Byte) : (s.setV x b).st = s.st := rfl
@[simp] theorem State.setV_fb (s : State) (x : Nibble) (b : Byte) : (s.setV x b).fb = s.fb := rfl
@[simp] theorem State.setV_mem (s : State) (x : Nibble) (b : Byte) : (s.setV x b).mem = s.mem := rfl
@[simp] theorem State.setV_fault (s : State) (x : Nibble) (b : Byte) : (s.setV x b).fault = s.fault := rfl
@[simp] theorem State.setV_key (s : State) (x : Nibble) (b : Byte) : (s.setV x b).key = s.key := rfl
@[simp] theorem State.setV_rnd (s : State) (x : Nibble) (b : Byte) : (s.setV x b).rnd = s.rnd := rfl
@[simp] theorem State.setV_draws (s : State) (x : Nibble) (b : Byte) : (s.setV x b).draws = s.draws := rfl
@[simp] theorem State.setV_readMem (s : State) (x : Nibble) (b : Byte) (a' : Nat) : (s.setV x b).readMem a' = s.readMem a' := rfl

/-! ### setI -/

@[simp] theorem State.setI_v (s : State) (w : Word) : (s.setI w).v = s.v := rfl
@[simp] theorem State.setI_i (s : State) (w : Word) : (s.setI w).i = w := rfl
@[simp] theorem State.setI_pc (s : State) (w : Word) : (s.setI w).pc = s.pc := rfl
@[simp] theorem State.setI_sp (s : State) (w : Word) : (s.setI w).sp = s.sp := rfl
@[simp] theorem State.setI_stack (s : State) (w : Word) : (s.setI w).stack = s.stack := rfl
@[simp] theorem State.setI_dt (s : State) (w : Word) : (s.setI w).dt = s.dt := rfl
@[simp] theorem State.setI_st (s : State) (w : Word) : (s.setI w).st = s.st := rfl
@[simp] theorem State.setI_fb (s : State) (w : Word) : (s.setI w).fb = s.fb := rfl
@[simp] theorem State.setI_mem (s : State) (w : Word) : (s.setI w).mem = s.mem := rfl
@[simp] theorem State.setI_fault (s : State) (w : Word) : (s.setI w).fault = s.fault := rfl
@[simp] theorem State.setI_key (s : State) (w : Word) : (s.setI w).key = s.key := rfl
@[simp] theorem State.setI_rnd (s : State) (w : Word) : (s.setI w).rnd = s.rnd := rfl
@[simp] theorem State.setI_draws (s : State) (w : Word) : (s.setI w).draws = s.draws := rfl
@[simp] theorem State.setI_getV (s : State) (w : Word) (r : Nibble) : (s.setI w).getV r = s.getV r := rfl
@[simp] theorem State.setI_readMem (s : State) (w : Word) (a' : Nat) : (s.setI w).readMem a' = s.readMem a' := rfl

/-! ### setPc -/

@[simp] theorem State.setPc_v (s : State) (w : Word) : (s.setPc w).v = s.v := rfl
@[simp] theorem State.setPc_i (s : State) (w : Word) : (s.setPc w).i = s.i := rfl
@[simp] theorem State.setPc_pc (s : State) (w : Word) : (s.setPc w).pc = w := rfl
@[simp] theorem State.setPc_sp (s : State) (w : Word) : (s.setPc w).sp = s.sp := rfl
@[simp] theorem State.setPc_stack (s : State) (w : Word) : (s.setPc w).stack = s.stack := rfl
@[simp] theorem State.setPc_dt (s : State) (w : Word) : (s.setPc w).dt = s.dt := rfl
@[simp] theorem State.setPc_st (s : State) (w : Word) : (s.setPc w).st = s.st := rfl
@[simp] theorem State.setPc_fb (s : State) (w : Word) : (s.setPc w).fb = s.fb := rfl
@[simp] theorem State.setPc_mem (s : State) (w : Word) : (s.setPc w).mem = s.mem := rfl
@[simp] theorem State.setPc_fault (s : State) (w : Word) : (s.setPc w).fault = s.fault := rfl
@[simp] theorem State.setPc_key (s : State) (w : Word) : (s.setPc w).key = s.key := rfl
@[simp] theorem State.setPc_rnd (s : State) (w : Word) : (s.setPc w).rnd = s.rnd := rfl
@[simp] theorem State.setPc_draws (s : State) (w : Word) : (s.setPc w).draws = s.draws := rfl
@[simp] theorem State.setPc_getV (s : State) (w : Word) (r : Nibble) : (s.setPc w).getV r = s.getV r := rfl
@[simp] theorem State.setPc_readMem (s : State) (w : Word) (a' : Nat) : (s.setPc w).readMem a' = s.readMem a' := rfl

/-! ### advancePc -/

@[simp] theorem State.advancePc_v (s : State) : (s.advancePc).v = s.v := rfl
@[simp] theorem State.advancePc_i (s : State) : (s.advancePc).i = s.i := rfl
@[simp] theorem State.advancePc_pc (s : State) : (s.advancePc).pc = s.pc + 2 := rfl
@[simp] theorem State.advancePc_sp (s : State) : (s.advancePc).sp = s.sp := rfl
@[simp] theorem State.advancePc_stack (s : State) : (s.advancePc).stack = s.stack := rfl
@[simp] theorem State.advancePc_dt (s : State) : (s.advancePc).dt = s.dt := rfl
@[simp] theorem State.advancePc_st (s : State) : (s.advancePc).st = s.st := rfl
@[simp] theorem State.advancePc_fb (s : State) : (s.advancePc).fb = s.fb := rfl
@[simp] theorem State.advancePc_mem (s : State) : (s.advancePc).mem = s.mem := rfl
@[simp] theorem State.advancePc_fault (s : State) : (s.advancePc).fault = s.fault := rfl
@[simp] theorem State.advancePc_key (s : State) : (s.advancePc).key = s.key := rfl
@[simp] theorem State.advancePc_rnd (s : State) : (s.advancePc).rnd = s.rnd := rfl
@[simp] theorem State.advancePc_draws (s : State) : (s.advancePc).draws = s.draws := rfl
@[simp] theorem State.advancePc_getV (s : State) (r : Nibble) : (s.advancePc).getV r = s.getV r := rfl
@[simp] theorem State.advancePc_readMem (s : State) (a' : Nat) : (s.advancePc).readMem a' = s.readMem a' := rfl

/-! ### rewindPc -/

@[simp] theorem State.rewindPc_v (s : State) : (s.rewindPc).v = s.v := rfl
@[simp] theorem State.rewindPc_i (s : State) : (s.rewindPc).i = s.i := rfl
@[simp] theorem State.rewindPc_pc (s : State) : (s.rewindPc).pc = s.pc - 2 := rfl
@[simp] theorem State.rewindPc_sp (s : State) : (s.rewindPc).sp = s.sp := rfl
@[simp] theorem State.rewindPc_stack (s : State) : (s.rewindPc).stack = s.stack := rfl
@[simp] theorem State.rewindPc_dt (s : State) : (s.rewindPc).dt = s.dt := rfl
@[simp] theorem State.rewindPc_st (s : State) : (s.rewindPc).st = s.st := rfl
@[simp] theorem State.rewindPc_fb (s : State) : (s.rewindPc).fb = s.fb := rfl
@[simp] theorem State.rewindPc_mem (s : State) : (s.rewindPc).mem = s.mem := rfl
@[simp] theorem State.rewindPc_fault (s : State) : (s.rewindPc).fault = s.fault := rfl
@[simp] theorem State.rewindPc_key (s : State) : (s.rewindPc).key = s.key := rfl
@[simp] theorem State.rewindPc_rnd (s : State) : (s.rewindPc).rnd = s.rnd := rfl
@[simp] theorem State.rewindPc_draws (s : State) : (s.rewindPc).draws = s.draws := rfl
@[simp] theorem State.rewindPc_getV (s : State) (r : Nibble) : (s.rewindPc).getV r = s.getV r := rfl
@[simp] theorem State.rewindPc_readMem (s : State) (a' : Nat) : (s.rewindPc).readMem a' = s.readMem a' := rfl

/-! ### setDt -/

@[simp] theorem State.setDt_v (s : State) (b : Byte) : (s.setDt b).v = s.v := rfl
@[simp] theorem State.setDt_i (s : State) (b : Byte) : (s.setDt b).i = s.i := rfl
@[simp] theorem State.setDt_pc (s : State) (b : Byte) : (s.setDt b).pc = s.pc := rfl
@[simp] theorem State.setDt_sp (s : State) (b : Byte) : (s.setDt b).sp = s.sp := rfl
@[simp] theorem State.setDt_stack (s : State) (b : Byte) : (s.setDt b).stack = s.stack := rfl
@[simp] theorem State.setDt_dt (s : State) (b : Byte) : (s.setDt b).dt = b := rfl
@[simp] theorem State.setDt_st (s : State) (b : Byte) : (s.setDt b).st = s.st := rfl
@[simp] theorem State.setDt_fb (s : State) (b : Byte) : (s.setDt b).fb = s.fb := rfl
@[simp] theorem State.setDt_mem (s : State) (b : Byte) : (s.setDt b).mem = s.mem := rfl
@[simp] theorem State.setDt_fault (s : State) (b : Byte) : (s.setDt b).fault = s.fault := rfl
@[simp] theorem State.setDt_key (s : State) (b : Byte) : (s.setDt b).key = s.key := rfl
@[simp] theorem State.setDt_rnd (s : State) (b : Byte) : (s.setDt b).rnd = s.rnd := rfl
@[simp] theorem State.setDt_draws (s : State) (b : Byte) : (s.setDt b).draws = s.draws := rfl
@[simp] theorem State.setDt_getV (s : State) (b : Byte) (r : Nibble) : (s.setDt b).getV r = s.getV r := rfl
@[simp] theorem State.setDt_readMem (s : State) (b : Byte) (a' : Nat) : (s.setDt b).readMem a' = s.readMem a' := rfl

/-! ### setSt -/

@[simp] theorem State.setSt_v (s : State) (b : Byte) : (s.setSt b).v = s.v := rfl
@[simp] theorem State.setSt_i (s : State) (b : Byte) : (s.setSt b).i = s.i := rfl
@[simp] theorem State.setSt_pc (s : State) (b : Byte) : (s.setSt b).pc = s.pc := rfl
@[simp] theorem State.setSt_sp (s : State) (b : Byte) : (s.setSt b).sp = s.sp := rfl
@[simp] theorem State.setSt_stack (s : State) (b : Byte) : (s.setSt b).stack = s.stack := rfl
@[simp] theorem State.setSt_dt (s : State) (b : Byte) : (s.setSt b).dt = s.dt := rfl
@[simp] theorem State.setSt_st (s : State) (b : Byte) : (s.setSt b).st = b := rfl
@[simp] theorem State.setSt_fb (s : State) (b : Byte) : (s.setSt b).fb = s.fb := rfl
@[simp] theorem State.setSt_mem (s : State) (b : Byte) : (s.setSt b).mem = s.mem := rfl
@[simp] theorem State.setSt_fault (s : State) (b : Byte) : (s.setSt b).fault = s.fault := rfl
@[simp] theorem State.setSt_key (s : State) (b : Byte) : (s.setSt b).key = s.key := rfl
@[simp] theorem State.setSt_rnd (s : State) (b : Byte) : (s.setSt b).rnd = s.rnd := rfl
@[simp] theorem State.setSt_draws (s : State) (b : Byte) : (s.setSt b).draws = s.draws := rfl
@[simp] theorem State.setSt_getV (s : State) (b : Byte) (r : Nibble) : (s.setSt b).getV r = s.getV r := rfl
@[simp] theorem State.setSt_readMem (s : State) (b : Byte) (a' : Nat) : (s.setSt b).readMem a' = s.readMem a' := rfl

/-! ### setFb -/

@[simp] theorem State.setFb_v (s : State) (f : FrameBuffer) : (s.setFb f).v = s.v := rfl
@[simp] theorem State.setFb_i (s : State) (f : FrameBuffer) : (s.setFb f).i = s.i := rfl
@[simp] theorem State.setFb_pc (s : State) (f : FrameBuffer) : (s.setFb f).pc = s.pc := rfl
@[simp] theorem State.setFb_sp (s : State) (f : FrameBuffer) : (s.setFb f).sp = s.sp := rfl
@[simp] theorem State.setFb_stack (s : State) (f : FrameBuffer) : (s.setFb f).stack = s.stack := rfl
@[simp] theorem State.setFb_dt (s : State) (f : FrameBuffer) : (s.setFb f).dt = s.dt := rfl
@[simp] theorem State.setFb_st (s : State) (f : FrameBuffer) : (s.setFb f).st = s.st := rfl
@[simp] theorem State.setFb_fb (s : State) (f : FrameBuffer) : (s.setFb f).fb = f := rfl
@[simp] theorem State.setFb_mem (s : State) (f : FrameBuffer) : (s.setFb f).mem = s.mem := rfl
@[simp] theorem State.setFb_fault (s : State) (f : FrameBuffer) : (s.setFb f).fault = s.fault := rfl
@[simp] theorem State.setFb_key (s : State) (f : FrameBuffer) : (s.setFb f).key = s.key := rfl
@[simp] theorem State.setFb_rnd (s : State) (f : FrameBuffer) : (s.setFb f).rnd = s.rnd := rfl
@[simp] theorem State.setFb_draws (s : State) (f : FrameBuffer) : (s.setFb f).draws = s.draws := rfl
@[simp] theorem State.setFb_getV (s : State) (f : FrameBuffer) (r : Nibble) : (s.setFb f).getV r = s.getV r := rfl
@[simp] theorem State.setFb_readMem (s : State) (f : FrameBuffer) (a' : Nat) : (s.setFb f).readMem a' = s.readMem a' := rfl

/-! ### push -/

@[simp] theorem State.push_v (s : State) (w : Word) : (s.push w).v = s.v := rfl
@[simp] theorem State.push_i (s : State) (w : Word) : (s.push w).i = s.i := rfl
@[simp] theorem State.push_pc (s : State) (w : Word) : (s.push w).pc = s.pc := rfl
@[simp] theorem State.push_sp (s : State) (w : Word) : (s.push w).sp = s.sp + 1 := rfl
@[simp] theorem State.push_stack (s : State) (w : Word) : (s.push w).stack = s.stack.setIfInBounds s.sp.val w := rfl
@[simp] theorem State.push_dt (s : State) (w : Word) : (s.push w).dt = s.dt := rfl
@[simp] theorem State.push_st (s : State) (w : Word) : (s.push w).st = s.st := rfl
@[simp] theorem State.push_fb (s : State) (w : Word) : (s.push w).fb = s.fb := rfl
@[simp] theorem State.push_mem (s : State) (w : Word) : (s.push w).mem = s.mem := rfl
@[simp] theorem State.push_fault (s : State) (w : Word) : (s.push w).fault = s.fault := rfl
@[simp] theorem State.push_key (s : State) (w : Word) : (s.push w).key = s.key := rfl
@[simp] theorem State.push_rnd (s : State) (w : Word) : (s.push w).rnd = s.rnd := rfl
@[simp] theorem State.push_draws (s : State) (w : Word) : (s.push w).draws = s.draws := rfl
@[simp] theorem State.push_getV (s : State) (w : Word) (r : Nibble) : (s.push w).getV r = s.getV r := rfl
@[simp] theorem State.push_readMem (s : State) (w : Word) (a' : Nat) : (s.push w).readMem a' = s.readMem a' := rfl

/-! ### drop -/

@[simp] theorem State.drop_v (s : State) : (s.drop).v = s.v := rfl
@[simp] theorem State.drop_i (s : State) : (s.drop).i = s.i := rfl
@[simp] theorem State.drop_pc (s : State) : (s.drop).pc = s.pc := rfl
@[simp] theorem State.drop_sp (s : State) : (s.drop).sp = s.sp - 1 := rfl
@[simp] theorem State.drop_stack (s : State) : (s.drop).stack = s.stack := rfl
@[simp] theorem State.drop_dt (s : State) : (s.drop).dt = s.dt := rfl
@[simp] theorem State.drop_st (s : State) : (s.drop).st = s.st := rfl
@[simp] theorem State.drop_fb (s : State) : (s.drop).fb = s.fb := rfl
@[simp] theorem State.drop_mem (s : State) : (s.drop).mem = s.mem := rfl
@[simp] theorem State.drop_fault (s : State) : (s.drop).fault = s.fault := rfl
@[simp] theorem State.drop_key (s : State) : (s.drop).key = s.key := rfl
@[simp] theorem State.drop_rnd (s : State) : (s.drop).rnd = s.rnd := rfl
@[simp] theorem State.drop_draws (s : State) : (s.drop).draws = s.draws := rfl
@[simp] theorem State.drop_getV (s : State) (r : Nibble) : (s.drop).getV r = s.getV r := rfl
@[simp] theorem State.drop_readMem (s : State) (a' : Nat) : (s.drop).readMem a' = s.readMem a' := rfl

/-! ### setFault -/

@[simp] theorem State.setFault_v (s : State) (c : BitVec 2) : (s.setFault c).v = s.v := rfl
@[simp] theorem State.setFault_i (s : State) (c : BitVec 2) : (s.setFault c).i = s.i := rfl
@[simp] theorem State.setFault_pc (s : State) (c : BitVec 2) : (s.setFault c).pc = s.pc := rfl
@[simp] theorem State.setFault_sp (s : State) (c : BitVec 2) : (s.setFault c).sp = s.sp := rfl
@[simp] theorem State.setFault_stack (s : State) (c : BitVec 2) : (s.setFault c).stack = s.stack := rfl
@[simp] theorem State.setFault_dt (s : State) (c : BitVec 2) : (s.setFault c).dt = s.dt := rfl
@[simp] theorem State.setFault_st (s : State) (c : BitVec 2) : (s.setFault c).st = s.st := rfl
@[simp] theorem State.setFault_fb (s : State) (c : BitVec 2) : (s.setFault c).fb = s.fb := rfl
@[simp] theorem State.setFault_mem (s : State) (c : BitVec 2) : (s.setFault c).mem = s.mem := rfl
@[simp] theorem State.setFault_fault (s : State) (c : BitVec 2) : (s.setFault c).fault = c := rfl
@[simp] theorem State.setFault_key (s : State) (c : BitVec 2) : (s.setFault c).key = s.key := rfl
@[simp] theorem State.setFault_rnd (s : State) (c : BitVec 2) : (s.setFault c).rnd = s.rnd := rfl
@[simp] theorem State.setFault_draws (s : State) (c : BitVec 2) : (s.setFault c).draws = s.draws := rfl
@[simp] theorem State.setFault_getV (s : State) (c : BitVec 2) (r : Nibble) : (s.setFault c).getV r = s.getV r := rfl
@[simp] theorem State.setFault_readMem (s : State) (c : BitVec 2) (a' : Nat) : (s.setFault c).readMem a' = s.readMem a' := rfl

/-! ### raise -/

@[simp] theorem State.raise_v (s : State) (f : Fault) : (s.raise f).v = s.v := rfl
@[simp] theorem State.raise_i (s : State) (f : Fault) : (s.raise f).i = s.i := rfl
@[simp] theorem State.raise_pc (s : State) (f : Fault) : (s.raise f).pc = s.pc - 2 := rfl
@[simp] theorem State.raise_sp (s : State) (f : Fault) : (s.raise f).sp = s.sp := rfl
@[simp] theorem State.raise_stack (s : State) (f : Fault) : (s.raise f).stack = s.stack := rfl
@[simp] theorem State.raise_dt (s : State) (f : Fault) : (s.raise f).dt = s.dt := rfl
@[simp] theorem State.raise_st (s : State) (f : Fault) : (s.raise f).st = s.st := rfl
@[simp] theorem State.raise_fb (s : State) (f : Fault) : (s.raise f).fb = s.fb := rfl
@[simp] theorem State.raise_mem (s : State) (f : Fault) : (s.raise f).mem = s.mem := rfl
@[simp] theorem State.raise_fault (s : State) (f : Fault) : (s.raise f).fault = f.code := rfl
@[simp] theorem State.raise_key (s : State) (f : Fault) : (s.raise f).key = s.key := rfl
@[simp] theorem State.raise_rnd (s : State) (f : Fault) : (s.raise f).rnd = s.rnd := rfl
@[simp] theorem State.raise_draws (s : State) (f : Fault) : (s.raise f).draws = s.draws := rfl
@[simp] theorem State.raise_getV (s : State) (f : Fault) (r : Nibble) : (s.raise f).getV r = s.getV r := rfl
@[simp] theorem State.raise_readMem (s : State) (f : Fault) (a' : Nat) : (s.raise f).readMem a' = s.readMem a' := rfl

/-! ### writeMem -/

@[simp] theorem State.writeMem_v (s : State) (a : Nat) (b : Byte) : (s.writeMem a b).v = s.v := rfl
@[simp] theorem State.writeMem_i (s : State) (a : Nat) (b : Byte) : (s.writeMem a b).i = s.i := rfl
@[simp] theorem State.writeMem_pc (s : State) (a : Nat) (b : Byte) : (s.writeMem a b).pc = s.pc := rfl
@[simp] theorem State.writeMem_sp (s : State) (a : Nat) (b : Byte) : (s.writeMem a b).sp = s.sp := rfl
@[simp] theorem State.writeMem_stack (s : State) (a : Nat) (b : Byte) : (s.writeMem a b).stack = s.stack := rfl
@[simp] theorem State.writeMem_dt (s : State) (a : Nat) (b : Byte) : (s.writeMem a b).dt = s.dt := rfl
@[simp] theorem State.writeMem_st (s : State) (a : Nat) (b : Byte) : (s.writeMem a b).st = s.st := rfl
@[simp] theorem State.writeMem_fb (s : State) (a : Nat) (b : Byte) : (s.writeMem a b).fb = s.fb := rfl
@[simp] theorem State.writeMem_mem (s : State) (a : Nat) (b : Byte) : (s.writeMem a b).mem = Memory.write s.mem a b := rfl
@[simp] theorem State.writeMem_fault (s : State) (a : Nat) (b : Byte) : (s.writeMem a b).fault = s.fault := rfl
@[simp] theorem State.writeMem_key (s : State) (a : Nat) (b : Byte) : (s.writeMem a b).key = s.key := rfl
@[simp] theorem State.writeMem_rnd (s : State) (a : Nat) (b : Byte) : (s.writeMem a b).rnd = s.rnd := rfl
@[simp] theorem State.writeMem_draws (s : State) (a : Nat) (b : Byte) : (s.writeMem a b).draws = s.draws := rfl
@[simp] theorem State.writeMem_getV (s : State) (a : Nat) (b : Byte) (r : Nibble) : (s.writeMem a b).getV r = s.getV r := rfl

/-! ### tick -/

@[simp] theorem State.tick_v (s : State) : (s.tick).v = s.v := rfl
@[simp] theorem State.tick_i (s : State) : (s.tick).i = s.i := rfl
@[simp] theorem State.tick_pc (s : State) : (s.tick).pc = s.pc := rfl
@[simp] theorem State.tick_sp (s : State) : (s.tick).sp = s.sp := rfl
@[simp] theorem State.tick_stack (s : State) : (s.tick).stack = s.stack := rfl
@[simp] theorem State.tick_dt (s : State) : (s.tick).dt = tickTimer s.dt := rfl
@[simp] theorem State.tick_st (s : State) : (s.tick).st = tickTimer s.st := rfl
@[simp] theorem State.tick_fb (s : State) : (s.tick).fb = s.fb := rfl
@[simp] theorem State.tick_mem (s : State) : (s.tick).mem = s.mem := rfl
@[simp] theorem State.tick_fault (s : State) : (s.tick).fault = s.fault := rfl
@[simp] theorem State.tick_key (s : State) : (s.tick).key = s.key := rfl
@[simp] theorem State.tick_rnd (s : State) : (s.tick).rnd = s.rnd := rfl
@[simp] theorem State.tick_draws (s : State) : (s.tick).draws = s.draws := rfl
@[simp] theorem State.tick_getV (s : State) (r : Nibble) : (s.tick).getV r = s.getV r := rfl
@[simp] theorem State.tick_readMem (s : State) (a' : Nat) : (s.tick).readMem a' = s.readMem a' := rfl

/-! ### sampleInputs -/

@[simp] theorem State.sampleInputs_v (s : State) : (s.sampleInputs).v = s.v := rfl
@[simp] theorem State.sampleInputs_i (s : State) : (s.sampleInputs).i = s.i := rfl
@[simp] theorem State.sampleInputs_pc (s : State) : (s.sampleInputs).pc = s.pc := rfl
@[simp] theorem State.sampleInputs_sp (s : State) : (s.sampleInputs).sp = s.sp := rfl
@[simp] theorem State.sampleInputs_stack (s : State) : (s.sampleInputs).stack = s.stack := rfl
@[simp] theorem State.sampleInputs_dt (s : State) : (s.sampleInputs).dt = s.dt := rfl
@[simp] theorem State.sampleInputs_st (s : State) : (s.sampleInputs).st = s.st := rfl
@[simp] theorem State.sampleInputs_fb (s : State) : (s.sampleInputs).fb = s.fb := rfl
@[simp] theorem State.sampleInputs_mem (s : State) : (s.sampleInputs).mem = s.mem := rfl
@[simp] theorem State.sampleInputs_fault (s : State) : (s.sampleInputs).fault = s.fault := rfl
@[simp] theorem State.sampleInputs_key (s : State) : (s.sampleInputs).key = Config.keyInput s.draws := rfl
@[simp] theorem State.sampleInputs_rnd (s : State) : (s.sampleInputs).rnd = Config.rndInput s.draws := rfl
@[simp] theorem State.sampleInputs_draws (s : State) : (s.sampleInputs).draws = s.draws + 1 := rfl
@[simp] theorem State.sampleInputs_getV (s : State) (r : Nibble) : (s.sampleInputs).getV r = s.getV r := rfl
@[simp] theorem State.sampleInputs_readMem (s : State) (a' : Nat) : (s.sampleInputs).readMem a' = s.readMem a' := rfl

/-! ### drawIndex -/

@[simp] theorem State.drawIndex_v (s : State) : (s.drawIndex).v = s.v := rfl
@[simp] theorem State.drawIndex_i (s : State) : (s.drawIndex).i = Config.freeIndex s.draws := rfl
@[simp] theorem State.drawIndex_pc (s : State) : (s.drawIndex).pc = s.pc := rfl
@[simp] theorem State.drawIndex_sp (s : State) : (s.drawIndex).sp = s.sp := rfl
@[simp] theorem State.drawIndex_stack (s : State) : (s.drawIndex).stack = s.stack := rfl
@[simp] theorem State.drawIndex_dt (s : State) : (s.drawIndex).dt = s.dt := rfl
@[simp] theorem State.drawIndex_st (s : State) : (s.drawIndex).st = s.st := rfl
@[simp] theorem State.drawIndex_fb (s : State) : (s.drawIndex).fb = s.fb := rfl
@[simp] theorem State.drawIndex_mem (s : State) : (s.drawIndex).mem = s.mem := rfl
@[simp] theorem State.drawIndex_fault (s : State) : (s.drawIndex).fault = s.fault := rfl
@[simp] theorem State.drawIndex_key (s : State) : (s.drawIndex).key = s.key := rfl
@[simp] theorem State.drawIndex_rnd (s : State) : (s.drawIndex).rnd = s.rnd := rfl
@[simp] theorem State.drawIndex_draws (s : State) : (s.drawIndex).draws = s.draws + 1 := rfl
@[simp] theorem State.drawIndex_getV (s : State) (r : Nibble) : (s.drawIndex).getV r = s.getV r := rfl
@[simp] theorem State.drawIndex_readMem (s : State) (a' : Nat) : (s.drawIndex).readMem a' = s.readMem a' := rfl

/-! ### Reading a register after writing one -/

/-- Reading back a register gives the value written; every other register is as before. -/
@[simp] theorem State.setV_getV (s : State) (x : Nibble) (b : Byte) (r : Nibble) :
    (s.setV x b).getV r = if r = x then b else s.getV r := by
  unfold State.getV State.setV
  simp only [Vector.getElem_set]
  by_cases h : r = x
  · simp [h]
  · have h' : ¬ x.toNat = r.toNat := fun e => h (BitVec.eq_of_toNat_eq e.symm)
    simp [h, h']

/-! ### The result and the flag (`43_alu.md` R121) -/

/-- With `VF_ORDER` flag last, the flag is what VF holds in the end, whatever the destination. -/
theorem State.setVWithFlag_eq (s : State) (x : Nibble) (r : Byte) (c : Bool) :
    s.setVWithFlag x r c = (s.setV x r).setV regVF (flagByte c) := rfl

/-! ### The stack -/

/-- Pushing below a full stack raises SP by one. -/
theorem State.push_sp_val (s : State) (w : Word) (h : s.sp ≠ 16) : (s.push w).sp.val = s.sp.val + 1 := by
  have h1 : s.sp.val ≠ 16 := fun e => h (Fin.ext e)
  have h2 := s.sp.isLt
  simp only [State.push_sp, Fin.val_add, Fin.val_one]
  omega

/-- Popping a stack that is not empty lowers SP by one. -/
theorem State.drop_sp_val (s : State) (h : s.sp ≠ 0) : s.drop.sp.val = s.sp.val - 1 := by
  have h1 : s.sp.val ≠ 0 := fun e => h (Fin.ext e)
  have h2 := s.sp.isLt
  simp only [State.drop_sp, Fin.sub_def, Fin.val_one]
  omega

/-- Every slot after a push: the slot at the old SP holds the pushed word. -/
theorem State.push_slot (s : State) (w : Word) (k : Nat) (h : k < 16) :
    (s.push w).stack[k]? = if k = s.sp.val then some w else s.stack[k]? := by
  simp only [State.push_stack, Vector.getElem?_setIfInBounds]
  by_cases e : k = s.sp.val
  · simp [← e, h]
  · simp [e, Ne.symm e]

end Sys2Proof.Machine
end

