-- ==== Sys2Proof/Laws/Display.lean ====
section
/-!
SUPPORT. What the sprite engine of `46_display.md` does: which pixels a sprite covers, and what plotting a list of
distinct pixels leaves.
-/

namespace Sys2Proof.Machine

/-- Blanking leaves every pixel off. -/
@[simp] theorem FrameBuffer.blank_pixel (k : Nat) : FrameBuffer.pixel FrameBuffer.blank k = 0 := by
  simp only [FrameBuffer.pixel, FrameBuffer.blank, Vector.getElem?_replicate]
  split <;> rfl

/-- Toggling a pixel of the frame buffer inverts its word and leaves the others. -/
theorem FrameBuffer.toggle_pixel (f : FrameBuffer) {k : Nat} (hk : k < Config.fbSize) (j : Nat) :
    FrameBuffer.pixel (FrameBuffer.toggle f k) j =
      if j = k then FrameBuffer.pixel f k ^^^ pixelOn else FrameBuffer.pixel f j := by
  simp only [FrameBuffer.pixel, FrameBuffer.toggle, Vector.getElem?_setIfInBounds]
  by_cases h : k = j
  · subst h; simp [hk]
  · simp [h, Ne.symm h]

/-- Two frame buffers with the same pixels are equal. -/
theorem FrameBuffer.ext_pixel {f g : FrameBuffer}
    (h : ∀ k, k < Config.fbSize → FrameBuffer.pixel f k = FrameBuffer.pixel g k) : f = g := by
  apply Vector.ext
  intro k hk
  have := h k hk
  simpa [FrameBuffer.pixel, hk] using this

/-- Plotting distinct pixels of the frame buffer inverts exactly those. -/
theorem plotPixels_pixel (j : Nat) : ∀ (l : List Nat) (f : FrameBuffer) (hit : Bool), l.Nodup →
    (∀ k ∈ l, k < Config.fbSize) →
    FrameBuffer.pixel (plotPixels f hit l).1 j =
      if j ∈ l then FrameBuffer.pixel f j ^^^ pixelOn else FrameBuffer.pixel f j
  | [], _, _, _, _ => rfl
  | k :: rest, f, hit, hn, hb => by
    have hk := hb k (List.mem_cons_self ..)
    have ih := plotPixels_pixel j rest (FrameBuffer.toggle f k) (hit || FrameBuffer.pixel f k != 0)
      (List.nodup_cons.mp hn).2 fun k' h' => hb k' (List.mem_cons_of_mem _ h')
    have hkr := (List.nodup_cons.mp hn).1
    simp only [plotPixels, ih, FrameBuffer.toggle_pixel f hk, List.mem_cons]
    by_cases h : j = k
    · subst h; simp [hkr]
    · simp [h]

/-- The collision flag of plotting distinct pixels: one of them was on before. -/
theorem plotPixels_hit : ∀ (l : List Nat) (f : FrameBuffer) (hit : Bool), l.Nodup → (∀ k ∈ l, k < Config.fbSize) →
    ((plotPixels f hit l).2 = true ↔ hit = true ∨ ∃ k ∈ l, FrameBuffer.pixel f k ≠ 0)
  | [], _, _, _, _ => by simp [plotPixels]
  | k :: rest, f, hit, hn, hb => by
    have hk := hb k (List.mem_cons_self ..)
    have hkr := (List.nodup_cons.mp hn).1
    have ih := plotPixels_hit rest (FrameBuffer.toggle f k) (hit || FrameBuffer.pixel f k != 0)
      (List.nodup_cons.mp hn).2 fun k' h' => hb k' (List.mem_cons_of_mem _ h')
    have hrest : ∀ k' ∈ rest, FrameBuffer.pixel (FrameBuffer.toggle f k) k' = FrameBuffer.pixel f k' := by
      intro k' h'
      rw [FrameBuffer.toggle_pixel f hk, if_neg (fun (e : k' = k) => hkr (e ▸ h'))]
    have hex : (∃ k' ∈ rest, FrameBuffer.pixel (FrameBuffer.toggle f k) k' ≠ 0) ↔
        ∃ k' ∈ rest, FrameBuffer.pixel f k' ≠ 0 :=
      exists_congr fun k' => and_congr_right fun h' => by rw [hrest k' h']
    rw [plotPixels, ih, hex]
    simp only [Bool.or_eq_true, bne_iff_ne, ne_eq, List.mem_cons, exists_eq_or_imp, or_assoc]

/-- A pixel is placed exactly when it lies on the display, row by row (R155, R158 with the edge rule clip). -/
theorem placePixel_eq_some {px py k : Nat} :
    placePixel px py = some k ↔ px < Config.displayW ∧ py < Config.displayH ∧ k = py * Config.displayW + px := by
  simp only [placePixel, Config.drawEdge]
  split
  · next h => simp only [Option.some.injEq]; exact ⟨fun e => ⟨h.1, h.2, e.symm⟩, fun e => e.2.2.symm⟩
  · next h => simp only [reduceCtorEq, false_iff]; exact fun e => h ⟨e.1, e.2.1⟩

/-- The list of a sprite's pixels: the unclipped pixels under its set bits. -/
theorem State.mem_spritePixels {s : State} {x0 y0 rows k : Nat} :
    k ∈ s.spritePixels x0 y0 rows ↔ ∃ row < rows, ∃ col < 8, spriteBit (s.readMem (s.ea row)) col = true ∧
      x0 + col < Config.displayW ∧ y0 + row < Config.displayH ∧
      k = (y0 + row) * Config.displayW + (x0 + col) := by
  simp only [State.spritePixels, List.mem_flatMap, List.mem_range, List.mem_filterMap]
  constructor
  · rintro ⟨row, hr, col, hc, h⟩
    split at h
    · next hb => exact ⟨row, hr, col, hc, hb, placePixel_eq_some.mp h⟩
    · cases h
  · rintro ⟨row, hr, col, hc, hb, h⟩
    exact ⟨row, hr, col, hc, by rw [if_pos hb]; exact placePixel_eq_some.mpr h⟩

/-- Every pixel of a sprite is one of the frame buffer. -/
theorem State.spritePixels_lt {s : State} {x0 y0 rows : Nat} :
    ∀ k ∈ s.spritePixels x0 y0 rows, k < Config.fbSize := by
  intro k hk
  obtain ⟨row, _, col, _, _, hx, hy, rfl⟩ := State.mem_spritePixels.mp hk
  simp only [Config.displayW, Config.displayH, Config.fbSize] at *
  omega

/-- No pixel is reached by two bits of one sprite. -/
theorem State.spritePixels_nodup (s : State) (x0 y0 rows : Nat) : (s.spritePixels x0 y0 rows).Nodup := by
  rw [State.spritePixels, List.nodup_flatMap]
  constructor
  · intro row _
    refine List.Nodup.filterMap ?_ List.nodup_range
    intro c c' k hc hc'
    simp only [Option.mem_def] at hc hc'
    split at hc <;> split at hc' <;> try contradiction
    have h1 := placePixel_eq_some.mp hc
    have h2 := placePixel_eq_some.mp hc'
    omega
  · refine List.Pairwise.imp ?_ (List.nodup_iff_pairwise_ne.mp List.nodup_range)
    intro r r' hne k hk hk'
    simp only [List.mem_filterMap] at hk hk'
    obtain ⟨c, _, hc⟩ := hk
    obtain ⟨c', _, hc'⟩ := hk'
    split at hc <;> split at hc' <;> try contradiction
    have h1 := placePixel_eq_some.mp hc
    have h2 := placePixel_eq_some.mp hc'
    simp only [Config.displayW] at h1 h2
    omega

end Sys2Proof.Machine
end

