-- ==== Sys2Proof/Laws/Keys.lean ====
section
/-!
SUPPORT. What the key scan of `47_keypad.md` R168 finds.
-/

namespace Sys2Proof.Machine

/-- The scan finds nothing exactly when every key is up. -/
theorem State.firstKey_eq_none {s : State} : s.firstKey = none ↔ ∀ k : Nibble, s.keyDown k = false := by
  simp only [State.firstKey, List.find?_eq_none, List.mem_map, List.mem_range]
  constructor
  · intro h k
    have := h k ⟨k.toNat, k.isLt, by simp⟩
    simpa using this
  · rintro h _ ⟨n, _, rfl⟩
    simp [h]

/-- The scan finds the lowest key that is down. -/
theorem State.firstKey_eq_some {s : State} {k : Nibble} :
    s.firstKey = some k ↔ s.keyDown k = true ∧ ∀ j : Nibble, j.toNat < k.toNat → s.keyDown j = false := by
  unfold State.firstKey
  generalize s.keyDown = p
  rw [List.find?_eq_some_iff_getElem]
  constructor
  · rintro ⟨hp, n, hn, he, hall⟩
    refine ⟨hp, fun j hj => ?_⟩
    have hn' : n < 16 := by simpa using hn
    have hk : k.toNat = n := by
      rw [← he]; simp; omega
    have := hall j.toNat (by omega)
    simpa using this
  · rintro ⟨hp, hall⟩
    refine ⟨hp, k.toNat, by simpa using k.isLt, by simp, fun j hj => ?_⟩
    have hk := k.isLt
    have := hall (BitVec.ofNat 4 j) (by simp; omega)
    simpa using this

end Sys2Proof.Machine
end

