-- ==== Sys2Proof/Laws/Memory.lean ====
section
/-!
SUPPORT. The laws of memory: a read after a write, and that every memory operation keeps the canonical form.
-/

namespace Sys2Proof.Machine

/-! ### Reading -/

/-- An erased address is not listed; every other address is as before. -/
theorem Memory.find_erase (a a' : Nat) :
    ∀ m : Memory, Memory.find (Memory.erase m a) a' = if a' = a then none else Memory.find m a'
  | [] => by simp [Memory.erase, Memory.find]
  | (k, c) :: rest => by
    have ih := Memory.find_erase a a' rest
    by_cases hk : k = a
    · subst hk
      by_cases ha : k = a'
      · subst ha; simpa [Memory.erase] using ih
      · simp [Memory.erase, Memory.find, ih, ha, Ne.symm ha]
    · by_cases ha : k = a'
      · subst ha; simp [Memory.erase, Memory.find, hk]
      · simp [Memory.erase, Memory.find, hk, ha, ih]

/-- An inserted cell is found at its address, where there was none; every other address is as before. -/
theorem Memory.find_insert (a a' : Nat) (b : Byte) :
    ∀ m : Memory, Memory.find m a = none →
      Memory.find (Memory.insert m a b) a' = if a' = a then some b else Memory.find m a'
  | [], _ => by simp [Memory.insert, Memory.find, eq_comm]
  | (k, c) :: rest, h => by
    have hk : k ≠ a := fun e => by simp [Memory.find, e] at h
    have h' : Memory.find rest a = none := by simpa [Memory.find, hk] using h
    have ih := Memory.find_insert a a' b rest h'
    unfold Memory.insert
    split
    · by_cases ha : a = a'
      · simp [Memory.find, ha]
      · simp [Memory.find, ha, Ne.symm ha]
    · by_cases ha : k = a'
      · subst ha; simp [Memory.find, hk]
      · simp [Memory.find, ha, ih]

/-- Every byte after a write, for addresses already reduced, in any memory. -/
theorem Memory.get_put (m : Memory) (a a' : Nat) (b : Byte) :
    Memory.get (Memory.put m a b) a' = if a' = a then b else Memory.get m a' := by
  unfold Memory.put Memory.get
  split
  · next hb => rw [Memory.find_erase]; split <;> simp_all
  · rw [Memory.find_insert a a' b _ (by simp [Memory.find_erase]), Memory.find_erase]; split <;> simp

/-- R51: a byte read after a write. -/
theorem Memory.read_write (m : Memory) (a a' : Nat) (b : Byte) :
    Memory.read (Memory.write m a b) a' = if maskAddr a' = maskAddr a then b else Memory.read m a' :=
  Memory.get_put m (maskAddr a) (maskAddr a') b

/-- R51 on the state. -/
@[simp] theorem State.writeMem_readMem (s : State) (a a' : Nat) (b : Byte) :
    (s.writeMem a b).readMem a' = if maskAddr a' = maskAddr a then b else s.readMem a' :=
  Memory.read_write s.mem a a' b

/-! ### The canonical form -/

/-- A list that starts at a higher address also starts at a lower one. -/
theorem Memory.wfFrom_mono {lo lo' : Nat} (h : lo' ≤ lo) :
    ∀ {m : Memory}, Memory.wfFrom lo m = true → Memory.wfFrom lo' m = true
  | [], _ => rfl
  | (k, b) :: rest, hm => by
    simp only [Memory.wfFrom, Bool.and_eq_true, decide_eq_true_eq] at hm ⊢
    exact ⟨⟨⟨by omega, hm.1.1.2⟩, hm.1.2⟩, hm.2⟩

/-- Erasing keeps the canonical form. -/
theorem Memory.erase_wfFrom (a : Nat) :
    ∀ {m : Memory} {lo : Nat}, Memory.wfFrom lo m = true → Memory.wfFrom lo (Memory.erase m a) = true
  | [], _, _ => rfl
  | (k, c) :: rest, lo, h => by
    simp only [Memory.wfFrom, Bool.and_eq_true, decide_eq_true_eq] at h
    unfold Memory.erase
    split
    · exact Memory.wfFrom_mono (by omega) (Memory.erase_wfFrom a h.2)
    · simp only [Memory.wfFrom, Bool.and_eq_true, decide_eq_true_eq]
      exact ⟨h.1, Memory.erase_wfFrom a h.2⟩

/-- Inserting a byte that is not the reset byte at an address not listed keeps the canonical form. -/
theorem Memory.insert_wfFrom {a : Nat} {b : Byte} (ha : a < 4096) (hb : b ≠ resetByte a) :
    ∀ {m : Memory} {lo : Nat}, lo ≤ a → Memory.find m a = none → Memory.wfFrom lo m = true →
      Memory.wfFrom lo (Memory.insert m a b) = true
  | [], lo, hlo, _, _ => by simp [Memory.insert, Memory.wfFrom, hlo, ha, hb]
  | (k, c) :: rest, lo, hlo, hn, h => by
    have hk : k ≠ a := fun e => by simp [Memory.find, e] at hn
    have hn' : Memory.find rest a = none := by simpa [Memory.find, hk] using hn
    simp only [Memory.wfFrom, Bool.and_eq_true, decide_eq_true_eq] at h
    unfold Memory.insert
    split
    · next hlt =>
      simp only [Memory.wfFrom, Bool.and_eq_true, decide_eq_true_eq]
      exact ⟨⟨⟨hlo, ha⟩, hb⟩, ⟨⟨hlt, h.1.1.2⟩, h.1.2⟩, h.2⟩
    · simp only [Memory.wfFrom, Bool.and_eq_true, decide_eq_true_eq]
      exact ⟨h.1, Memory.insert_wfFrom ha hb (by omega) hn' h.2⟩

/-- `MemWrite` keeps the canonical form. -/
theorem Memory.write_wf {m : Memory} (h : m.wf = true) (a : Nat) (b : Byte) : (Memory.write m a b).wf = true := by
  unfold Memory.write Memory.put
  split
  · exact Memory.erase_wfFrom _ h
  · next hb =>
    exact Memory.insert_wfFrom (Nat.mod_lt _ (by omega)) hb (Nat.zero_le _)
      ((Memory.find_erase ..).trans (if_pos rfl)) (Memory.erase_wfFrom _ h)

/-- The memory after reset is canonical. -/
theorem State.reset_mem_wf : Memory.wf State.reset.mem = true := rfl

end Sys2Proof.Machine
end

