-- ==== Sys2Proof/Laws/Transfer.lean ====
section
/-!
SUPPORT. What the two register transfer loops of `44_index_memory.md` (R144, R145) do, once.
-/

namespace Sys2Proof.Machine

/-- Two offsets below 4096 reach the same byte only if they are equal (`20_memory.md` R57). -/
theorem maskAddr_add_inj {a j k : Nat} (hj : j < 4096) (hk : k < 4096) (h : maskAddr (a + j) = maskAddr (a + k)) :
    j = k := by
  unfold maskAddr at h; omega

/-- The dump loop changes memory only. -/
theorem State.dumpRegs_eq (s : State) : ∀ n : Nat, s.dumpRegs n = { s with mem := (s.dumpRegs n).mem }
  | 0 => rfl
  | n + 1 => by
    have ih := State.dumpRegs_eq s n
    show (s.dumpRegs n).writeMem _ _ = _
    rw [ih]; rfl

/-- Every byte after the dump loop: offset k below the count holds V[k], every other byte is as before. -/
theorem State.dumpRegs_readMem (s : State) (a : Nat) : ∀ n : Nat, n ≤ 4096 →
    (∀ k, k < n → maskAddr a = maskAddr (s.ea k) → (s.dumpRegs n).readMem a = s.getV (BitVec.ofNat 4 k)) ∧
      ((∀ k, k < n → maskAddr a ≠ maskAddr (s.ea k)) → (s.dumpRegs n).readMem a = s.readMem a)
  | 0, _ => ⟨fun _ h => absurd h (Nat.not_lt_zero _), fun _ => rfl⟩
  | n + 1, hn => by
    obtain ⟨ih1, ih2⟩ := State.dumpRegs_readMem s a n (by omega)
    have hstep : (s.dumpRegs (n + 1)).readMem a =
        if maskAddr a = maskAddr (s.ea n) then s.getV (BitVec.ofNat 4 n) else (s.dumpRegs n).readMem a :=
      State.writeMem_readMem _ _ _ _
    refine ⟨fun k hk he => ?_, fun hall => ?_⟩
    · rw [hstep]
      by_cases hkn : k = n
      · subst hkn; rw [if_pos he]
      · rw [if_neg, ih1 k (by omega) he]
        exact fun e => hkn (maskAddr_add_inj (by omega) (by omega) (he.symm.trans e))
    · rw [hstep, if_neg (hall n (by omega)), ih2 fun k hk => hall k (by omega)]

/-- The load loop changes registers only. -/
theorem State.loadRegs_eq (s : State) : ∀ n : Nat, s.loadRegs n = { s with v := (s.loadRegs n).v }
  | 0 => rfl
  | n + 1 => by
    have ih := State.loadRegs_eq s n
    show (s.loadRegs n).setV _ _ = _
    rw [ih]; rfl

/-- Every register after the load loop. -/
theorem State.loadRegs_getV (s : State) (r : Nibble) : ∀ n : Nat, n ≤ 16 →
    (s.loadRegs n).getV r = if r.toNat < n then s.readMem (s.ea r.toNat) else s.getV r
  | 0, _ => rfl
  | n + 1, hn => by
    have ih := State.loadRegs_getV s r n (by omega)
    have hstep : (s.loadRegs (n + 1)).getV r =
        if r = BitVec.ofNat 4 n then s.readMem (s.ea n) else (s.loadRegs n).getV r := State.setV_getV _ _ _ _
    rw [hstep, ih]
    have hval : (BitVec.ofNat 4 n).toNat = n := by simp; omega
    by_cases h : r = BitVec.ofNat 4 n
    · have : r.toNat = n := by rw [h, hval]
      simp [h, hval]
    · have hne : r.toNat ≠ n := fun e => h (BitVec.eq_of_toNat_eq (by rw [hval, e]))
      rw [if_neg h]
      by_cases hl : r.toNat < n
      · rw [if_pos hl, if_pos (by omega)]
      · rw [if_neg hl, if_neg (by omega)]

/-- The memory the dump loop leaves is canonical if it was. -/
theorem State.dumpRegs_wf {s : State} (h : s.mem.wf = true) : ∀ n : Nat, (s.dumpRegs n).mem.wf = true
  | 0 => h
  | n + 1 => Memory.write_wf (State.dumpRegs_wf h n) _ _

end Sys2Proof.Machine
end

