-- ==== Sys2Proof/Laws/Exec.lean ====
section
/-!
SUPPORT. What the Execute phase can do, said once: it answers a next state for every instruction, and never touches
the inputs of the Step.
-/

namespace Sys2Proof.Machine

/-- `exec` answers a next state for every instruction in every state (`60_exceptions.md` R199). -/
theorem exec_next (i : Instr) (s : State) : ∃ t, exec i s = .next t := by
  cases i <;> simp only [exec] <;>
    first
    | exact ⟨_, rfl⟩
    | (simp only [execCall, execRet, execLdF]; split <;> exact ⟨_, rfl⟩)

/-- A handler changes neither input port (`47_keypad.md` R165, `45_random.md` R150). -/
theorem exec_inputs {i : Instr} {s t : State} (h : exec i s = .next t) : t.key = s.key ∧ t.rnd = s.rnd := by
  cases i <;> simp only [exec] at h
  case call nnn => simp only [execCall] at h; split at h <;> cases h <;> exact ⟨rfl, rfl⟩
  case ret ign => simp only [execRet] at h; split at h <;> cases h <;> exact ⟨rfl, rfl⟩
  case ldF x => simp only [execLdF] at h; split at h <;> cases h <;> exact ⟨rfl, rfl⟩
  case ldVxK x => cases h; split <;> exact ⟨rfl, rfl⟩
  case dump x => cases h; rw [State.dumpRegs_eq]; exact ⟨rfl, rfl⟩
  case load x => cases h; rw [State.loadRegs_eq]; exact ⟨rfl, rfl⟩
  case seImm x kk => cases h; unfold State.skipIf; split <;> exact ⟨rfl, rfl⟩
  case sneImm x kk => cases h; unfold State.skipIf; split <;> exact ⟨rfl, rfl⟩
  case seReg x y ign => cases h; unfold State.skipIf; split <;> exact ⟨rfl, rfl⟩
  case sneReg x y ign => cases h; unfold State.skipIf; split <;> exact ⟨rfl, rfl⟩
  case skp x ign => cases h; unfold State.skipIf; split <;> exact ⟨rfl, rfl⟩
  case sknp x ign => cases h; unfold State.skipIf; split <;> exact ⟨rfl, rfl⟩
  all_goals cases h; exact ⟨rfl, rfl⟩

/-- A taken or untaken skip in one equation. -/
theorem State.skipIf_eq (s : State) (c : Bool) : s.skipIf c = s.setPc (if c then s.pc + 2 else s.pc) := by
  unfold State.skipIf; split <;> rfl

/-- A running machine's Step is its handler's answer with the end of the Step around it. -/
theorem step_running {s t : State} (h : s.fault = 0) (he : exec (decode s.fetchWord) s.advancePc = .next t) :
    step s = .next t.finish := by
  unfold step cycle runningStep
  rw [if_neg (by simp [h]), he]

/-- The end of a Step that raised nothing. -/
theorem State.finish_running {t : State} (h : t.fault = 0) : t.finish = t.tick.sampleInputs := by
  unfold State.finish; rw [if_neg (by simp [h])]

/-- The end of a Step that raised a fault. -/
theorem State.finish_faulted {t : State} (h : t.fault ≠ 0) : t.finish = t := by
  unfold State.finish; rw [if_pos h]

end Sys2Proof.Machine
end

