-- ==== Sys2Proof/Laws/PerInstr.lean ====
section
/-!
SUPPORT. One lemma per constructor of `Instr` about its encoding: the top nibble of the encoded word is the family the
primary table of `30_encoding.md` R74, R76 assigns to the instruction.
-/

namespace Sys2Proof.Laws.FamilyNibble

/-- The family of an instruction (R76). -/
def family : Instr → Nibble
  | .cls _ | .ret _ => 0x0
  | .jp _ => 0x1
  | .call _ => 0x2
  | .seImm _ _ => 0x3
  | .sneImm _ _ => 0x4
  | .seReg _ _ _ => 0x5
  | .ldImm _ _ => 0x6
  | .addImm _ _ => 0x7
  | .ldReg _ _ | .orReg _ _ | .andReg _ _ | .xorReg _ _ | .addReg _ _ | .sub _ _ | .shr _ _ | .subn _ _ | .shl _ _ => 0x8
  | .sneReg _ _ _ => 0x9
  | .ldI _ => 0xA
  | .jpV0 _ => 0xB
  | .rnd _ _ => 0xC
  | .drw _ _ _ => 0xD
  | .skp _ _ | .sknp _ _ => 0xE
  | .ldVxDt _ | .ldVxK _ | .ldDtVx _ | .ldStVx _ | .addI _ | .ldF _ | .ldB _ | .dump _ | .load _ => 0xF
  | .nop op => Word.family op

/-- The encoded word lies in the instruction's family. -/
def Statement (i : Instr) : Prop := Word.family (encode i) = family i

/-- The top nibble of a 4-bit field in front of 12 bits. -/
theorem family_append (f : Nibble) (r : Addr12) : Word.family (f ++ r) = f := by
  unfold Word.family
  ext j hj
  simp only [BitVec.getElem_extractLsb', BitVec.getLsbD_append]
  rw [if_neg (by omega), show 12 + j - 12 = j by omega]
  exact BitVec.getLsbD_eq_getElem hj

/-- The same for fields 4, 8, 4 bits wide. -/
theorem family_append_8_4 (f : Nibble) (a : Byte) (b : Nibble) : Word.family (f ++ a ++ b) = f := by
  rw [BitVec.append_assoc]; exact family_append f (a ++ b)

/-- The same for fields 4, 4, 8 bits wide. -/
theorem family_append_4_8 (f a : Nibble) (b : Byte) : Word.family (f ++ a ++ b) = f := by
  rw [BitVec.append_assoc]; exact family_append f (a ++ b)

/-- The same for four fields of 4 bits. -/
theorem family_append_4_4_4 (f a b c : Nibble) : Word.family (f ++ a ++ b ++ c) = f := by
  rw [BitVec.append_assoc, BitVec.append_assoc]
  simp only [BitVec.cast_eq]
  exact family_append f (a ++ (b ++ c))

theorem cls (ign : Byte) : Statement (.cls ign) := family_append_8_4 ..
theorem ret (ign : Byte) : Statement (.ret ign) := family_append_8_4 ..
theorem jp (nnn : Addr12) : Statement (.jp nnn) := family_append ..
theorem call (nnn : Addr12) : Statement (.call nnn) := family_append ..
theorem seImm (x : Nibble) (kk : Byte) : Statement (.seImm x kk) := family_append_4_8 ..
theorem sneImm (x : Nibble) (kk : Byte) : Statement (.sneImm x kk) := family_append_4_8 ..
theorem seReg (x y ign : Nibble) : Statement (.seReg x y ign) := family_append_4_4_4 ..
theorem ldImm (x : Nibble) (kk : Byte) : Statement (.ldImm x kk) := family_append_4_8 ..
theorem addImm (x : Nibble) (kk : Byte) : Statement (.addImm x kk) := family_append_4_8 ..
theorem ldReg (x y : Nibble) : Statement (.ldReg x y) := family_append_4_4_4 ..
theorem orReg (x y : Nibble) : Statement (.orReg x y) := family_append_4_4_4 ..
theorem andReg (x y : Nibble) : Statement (.andReg x y) := family_append_4_4_4 ..
theorem xorReg (x y : Nibble) : Statement (.xorReg x y) := family_append_4_4_4 ..
theorem addReg (x y : Nibble) : Statement (.addReg x y) := family_append_4_4_4 ..
theorem sub (x y : Nibble) : Statement (.sub x y) := family_append_4_4_4 ..
theorem shr (x y : Nibble) : Statement (.shr x y) := family_append_4_4_4 ..
theorem subn (x y : Nibble) : Statement (.subn x y) := family_append_4_4_4 ..
theorem shl (x y : Nibble) : Statement (.shl x y) := family_append_4_4_4 ..
theorem sneReg (x y ign : Nibble) : Statement (.sneReg x y ign) := family_append_4_4_4 ..
theorem ldI (nnn : Addr12) : Statement (.ldI nnn) := family_append ..
theorem jpV0 (nnn : Addr12) : Statement (.jpV0 nnn) := family_append ..
theorem rnd (x : Nibble) (kk : Byte) : Statement (.rnd x kk) := family_append_4_8 ..
theorem drw (x y n : Nibble) : Statement (.drw x y n) := family_append_4_4_4 ..
theorem skp (x ign : Nibble) : Statement (.skp x ign) := family_append_4_4_4 ..
theorem sknp (x ign : Nibble) : Statement (.sknp x ign) := family_append_4_4_4 ..
theorem ldVxDt (x : Nibble) : Statement (.ldVxDt x) := family_append_4_8 ..
theorem ldVxK (x : Nibble) : Statement (.ldVxK x) := family_append_4_8 ..
theorem ldDtVx (x : Nibble) : Statement (.ldDtVx x) := family_append_4_8 ..
theorem ldStVx (x : Nibble) : Statement (.ldStVx x) := family_append_4_8 ..
theorem addI (x : Nibble) : Statement (.addI x) := family_append_4_8 ..
theorem ldF (x : Nibble) : Statement (.ldF x) := family_append_4_8 ..
theorem ldB (x : Nibble) : Statement (.ldB x) := family_append_4_8 ..
theorem dump (x : Nibble) : Statement (.dump x) := family_append_4_8 ..
theorem load (x : Nibble) : Statement (.load x) := family_append_4_8 ..
theorem nop (op : Word) : Statement (.nop op) := rfl

end Sys2Proof.Laws.FamilyNibble
end

