-- ==== Sys2Proof/Tests/Slice0.lean ====
section
/-!
SUPPORT. The model's own tests. Expected results are the vectors of `95_test_vectors.md` (its section is named before each
group), which come from the spec's rules by hand; then a witness for the hypotheses of each statement.
-/

namespace Sys2Proof.Tests
open Sys2Proof.Machine

/-- The reset state with an instruction word at PC = 0x0200, where the vectors place it. -/
def at200 (op : Nat) : State := State.reset.withFetchWord 16 op

/-- Some registers set. -/
def withV (s : State) : List (Nibble × Byte) → State
  | [] => s
  | (x, b) :: rest => withV (s.setV x b) rest

/-- What one Step leaves, seen through a reader. -/
def after {α : Type} (s : State) (f : State → α) : Option α :=
  match step s with
  | .next t => some (f t)
  | _ => none

/-- PC, a register and VF. -/
def pcAnd (x : Nibble) (t : State) : Word × Byte × Byte := (t.pc, t.getV x, t.getV 0xF)

/-! ## WellFormed: the one check refuses an ill-formed term -/

theorem test_wf_refuses_mapped_family0 : (Instr.nop 0x00EE).wf = false := by decide
theorem test_wf_refuses_mapped_family8 : (Instr.nop 0x8124).wf = false := by decide
theorem test_wf_refuses_mapped_familyE : (Instr.nop 0xE4A1).wf = false := by decide
theorem test_wf_refuses_mapped_familyF : (Instr.nop 0xF265).wf = false := by decide
theorem test_wf_refuses_direct_family : (Instr.nop 0x6A42).wf = false := by decide
theorem test_wf_accepts_unmapped : (Instr.nop 0x0001).wf = true ∧ (Instr.nop 0xF000).wf = true := by decide

/-! ## Decode: a word of each constructor, written out from the formats of `30_encoding.md` R72 and the selectors of R76 -/

theorem test_decode_cls : decodeTableWord 16 0b0000000011100000 = some (.cls 0x0E) := by decide
theorem test_decode_ret : decodeTableWord 16 0b0000000011101110 = some (.ret 0x0E) := by decide
theorem test_decode_jp : decodeTableWord 16 0b0001101010111100 = some (.jp 0xABC) := by decide
theorem test_decode_call : decodeTableWord 16 0b0010001100000000 = some (.call 0x300) := by decide
theorem test_decode_seImm : decodeTableWord 16 0b0011001100101010 = some (.seImm 3 0x2A) := by decide
theorem test_decode_sneImm : decodeTableWord 16 0b0100001100101010 = some (.sneImm 3 0x2A) := by decide
theorem test_decode_seReg : decodeTableWord 16 0b0101000100101111 = some (.seReg 1 2 0xF) := by decide
theorem test_decode_ldImm : decodeTableWord 16 0b0110101001000010 = some (.ldImm 0xA 0x42) := by decide
theorem test_decode_addImm : decodeTableWord 16 0b0111000100000011 = some (.addImm 1 3) := by decide
theorem test_decode_ldReg : decodeTableWord 16 0b1000000100100000 = some (.ldReg 1 2) := by decide
theorem test_decode_orReg : decodeTableWord 16 0b1000000100100001 = some (.orReg 1 2) := by decide
theorem test_decode_andReg : decodeTableWord 16 0b1000000100100010 = some (.andReg 1 2) := by decide
theorem test_decode_xorReg : decodeTableWord 16 0b1000000100100011 = some (.xorReg 1 2) := by decide
theorem test_decode_addReg : decodeTableWord 16 0b1000000100100100 = some (.addReg 1 2) := by decide
theorem test_decode_sub : decodeTableWord 16 0b1000000100100101 = some (.sub 1 2) := by decide
theorem test_decode_shr : decodeTableWord 16 0b1000000100100110 = some (.shr 1 2) := by decide
theorem test_decode_subn : decodeTableWord 16 0b1000000100100111 = some (.subn 1 2) := by decide
theorem test_decode_shl : decodeTableWord 16 0b1000000100101110 = some (.shl 1 2) := by decide
theorem test_decode_sneReg : decodeTableWord 16 0b1001000100100111 = some (.sneReg 1 2 7) := by decide
theorem test_decode_ldI : decodeTableWord 16 0b1010001011110000 = some (.ldI 0x2F0) := by decide
theorem test_decode_jpV0 : decodeTableWord 16 0b1011001100000000 = some (.jpV0 0x300) := by decide
theorem test_decode_rnd : decodeTableWord 16 0b1100001100001111 = some (.rnd 3 0x0F) := by decide
theorem test_decode_drw : decodeTableWord 16 0b1101000000010101 = some (.drw 0 1 5) := by decide
theorem test_decode_skp : decodeTableWord 16 0b1110010010011110 = some (.skp 4 9) := by decide
theorem test_decode_sknp : decodeTableWord 16 0b1110010010100001 = some (.sknp 4 0xA) := by decide
theorem test_decode_ldVxDt : decodeTableWord 16 0b1111010100000111 = some (.ldVxDt 5) := by decide
theorem test_decode_ldVxK : decodeTableWord 16 0b1111001100001010 = some (.ldVxK 3) := by decide
theorem test_decode_ldDtVx : decodeTableWord 16 0b1111010100010101 = some (.ldDtVx 5) := by decide
theorem test_decode_ldStVx : decodeTableWord 16 0b1111010100011000 = some (.ldStVx 5) := by decide
theorem test_decode_addI : decodeTableWord 16 0b1111001000011110 = some (.addI 2) := by decide
theorem test_decode_ldF : decodeTableWord 16 0b1111000000101001 = some (.ldF 0) := by decide
theorem test_decode_ldB : decodeTableWord 16 0b1111001100110011 = some (.ldB 3) := by decide
theorem test_decode_dump : decodeTableWord 16 0b1111001001010101 = some (.dump 2) := by decide
theorem test_decode_load : decodeTableWord 16 0b1111001001100101 = some (.load 2) := by decide
theorem test_decode_nop : decodeTableWord 16 0b1000000100101000 = some (.nop 0b1000000100101000) := by decide

/-- High byte first (`20_memory.md` R53); the rest is left. -/
theorem test_decode_bytes : decodeBytes [0x6A, 0x42, 0x99] = .ok (.ldImm 0xA 0x42, [0x99]) := by rfl
theorem test_decode_truncated : decodeBytes [0x6A] = .error .truncated := by rfl

/-! ## One Step: `95_test_vectors.md` 2.1, register loads, arithmetic, logic, shifts -/

theorem test_ldImm :
    after (at200 0x6A42) (pcAnd 0xA) = some (0x202, 0x42, 0) := by decide
theorem test_ldImm_vf :
    after (at200 0x6F07) (pcAnd 0) = some (0x202, 0, 7) := by decide
theorem test_addImm_wraps :
    after (withV (at200 0x7103) [(1, 0xFE), (0xF, 0x55)]) (pcAnd 1) = some (0x202, 0x01, 0x55) := by decide
theorem test_addImm_vf :
    after (withV (at200 0x7F01) [(0xF, 0xFF)]) (pcAnd 1) = some (0x202, 0, 0) := by decide
theorem test_ldReg :
    after (withV (at200 0x8120) [(2, 0x5C)]) (pcAnd 1) = some (0x202, 0x5C, 0) := by decide
theorem test_or_keeps_vf :
    after (withV (at200 0x8121) [(1, 0xF0), (2, 0x0F), (0xF, 0x55)]) (pcAnd 1) = some (0x202, 0xFF, 0x55) := by decide
theorem test_and :
    after (withV (at200 0x8122) [(1, 0xF3), (2, 0x3C)]) (pcAnd 1) = some (0x202, 0x30, 0) := by decide
theorem test_xor :
    after (withV (at200 0x8123) [(1, 0xF3), (2, 0x3C)]) (pcAnd 1) = some (0x202, 0xCF, 0) := by decide
theorem test_addReg_256 :
    after (withV (at200 0x8124) [(1, 0xFF), (2, 0x01)]) (pcAnd 1) = some (0x202, 0, 1) := by decide
theorem test_addReg_vf_is_dest :
    after (withV (at200 0x8F24) [(0xF, 0xF0), (2, 0x20)]) (pcAnd 2) = some (0x202, 0x20, 1) := by decide
theorem test_sub_borrow :
    after (withV (at200 0x8125) [(1, 0x05), (2, 0x07)]) (pcAnd 1) = some (0x202, 0xFE, 0) := by decide
theorem test_sub_equal :
    after (withV (at200 0x8125) [(1, 0x05), (2, 0x05)]) (pcAnd 1) = some (0x202, 0, 1) := by decide
theorem test_subn :
    after (withV (at200 0x8127) [(1, 0x05), (2, 0x07)]) (pcAnd 1) = some (0x202, 2, 1) := by decide
theorem test_subn_borrow :
    after (withV (at200 0x8127) [(1, 0x07), (2, 0x05)]) (pcAnd 1) = some (0x202, 0xFE, 0) := by decide
theorem test_shr_ignores_vy :
    after (withV (at200 0x8126) [(1, 0x05), (2, 0xAA)]) (pcAnd 1) = some (0x202, 2, 1) := by decide
theorem test_shr_vf :
    after (withV (at200 0x8F06) [(0xF, 0x03)]) (pcAnd 0) = some (0x202, 0, 1) := by decide
theorem test_shl :
    after (withV (at200 0x810E) [(1, 0x81)]) (pcAnd 1) = some (0x202, 2, 1) := by decide
theorem test_shl_vf_clear :
    after (withV (at200 0x8F0E) [(0xF, 0x41)]) (pcAnd 0) = some (0x202, 0, 0) := by decide

/-! ## 2.2, control transfer, fetch and PC arithmetic, NOP -/

theorem test_jp :
    after (at200 0x1ABC) State.pc = some 0xABC := by decide
theorem test_call_last_slot :
    after ({ at200 0x2300 with sp := 15 }) (fun t => (t.pc, t.sp.val, t.stack[15])) = some (0x300, 16, 0x202) := by decide
theorem test_call_overflow :
    after ({ at200 0x2300 with sp := 16, dt := 5 }) (fun t => (t.pc, t.sp.val, t.dt, t.fault)) = some (0x200, 16, 5, 2) := by decide
theorem test_ret_full_stack :
    after ({ at200 0x00EE with sp := 16, stack := State.reset.stack.set 15 0xABC }) (fun t => (t.pc, t.sp.val, t.fault)) = some (0xABC, 15, 0) := by decide
theorem test_ret_underflow :
    after ({ at200 0x00EE with dt := 5 }) (fun t => (t.pc, t.sp.val, t.dt, t.fault)) = some (0x200, 0, 5, 1) := by decide
theorem test_jpV0_above_fff :
    after (withV (at200 0xBFFF) [(0, 0xFF)]) State.pc = some 0x10FE := by decide
theorem test_fetch_straddles :
    after ({ State.reset with pc := 0xFFF, mem := [(0x000, 0x42), (0xFFF, 0x61)] }) (pcAnd 1) = some (0x1001, 0x42, 0) := by decide
theorem test_pc_wraps :
    after ({ State.reset with pc := 0xFFFE, mem := [(0xFFF, 0x01)] }) State.pc = some 0 := by decide
theorem test_nop_ticks :
    after ({ at200 0xF000 with dt := 3, st := 1 }) (fun t => (t.pc, t.dt, t.st)) = some (0x202, 2, 0) := by decide
theorem test_frozen :
    after ({ at200 0x2200 with fault := 2, dt := 7 }) (fun t => (t.pc, t.dt, t.fault)) = some (0x200, 7, 2) := by decide

/-! ## 2.3, skips -/

theorem test_seImm_skips :
    after (withV (at200 0x332A) [(3, 0x2A)]) State.pc = some 0x204 := by decide
theorem test_sneImm_equal :
    after (withV (at200 0x432A) [(3, 0x2A)]) State.pc = some 0x202 := by decide
theorem test_seReg_low_nibble_ignored :
    after (withV (at200 0x512F) [(1, 7), (2, 7)]) State.pc = some 0x204 := by decide
theorem test_sneReg_skips :
    after (withV (at200 0x9120) [(1, 7), (2, 8)]) State.pc = some 0x204 := by decide

/-! ## 2.4, index register, BCD, register dump and load -/

theorem test_ldI :
    after (at200 0xA2F0) State.i = some 0x2F0 := by decide
theorem test_addI_wraps :
    after ({ withV (at200 0xF21E) [(2, 2)] with i := 0xFFFF }) State.i = some 1 := by decide
theorem test_addI_crosses :
    after ({ withV (at200 0xF21E) [(2, 1), (0xF, 0x55)] with i := 0x0FFF }) (fun t => (t.i, t.getV 0xF)) = some (0x1000, 0x55) := by decide
theorem test_ldF_last_glyph :
    after (withV (at200 0xF029) [(0, 0x0F)]) State.i = some 0x9B := by decide
theorem test_ldF_undefined_goes_on :
    after ({ withV (at200 0xF029) [(0, 0x10)] with dt := 2 }) (fun t => (t.pc, t.getV 0, t.dt, t.sp.val)) = some (0x202, 0x10, 1, 0) := by decide
theorem test_ldB_wraps :
    after ({ withV (at200 0xF333) [(3, 0xEA)] with i := 0x0FFE }) (fun t => (t.readMem 0xFFE, t.readMem 0xFFF, t.readMem 0x000, t.i)) = some (2, 3, 4, 0xFFE) := by decide
theorem test_dump_stops_at_x :
    after ({ withV (at200 0xF255) [(0, 0x11), (1, 0x22), (2, 0x33), (3, 0x44)] with i := 0x400 }) (fun t => (t.readMem 0x400, t.readMem 0x401, t.readMem 0x402, t.readMem 0x403)) = some (0x11, 0x22, 0x33, 0) := by decide
theorem test_dump_all_wraps :
    after ({ withV (at200 0xFF55) [(0, 0xA0), (7, 0xA7), (8, 0xA8), (0xF, 0xAF)] with i := 0xFF8 }) (fun t => (t.readMem 0xFF8, t.readMem 0xFFF, t.readMem 0x000, t.readMem 0x007, t.mem.wf)) = some (0xA0, 0xA7, 0xA8, 0xAF, true) := by decide
theorem test_load_font :
    after ({ withV (at200 0xF265) [(3, 0x77)] with i := 0x50 }) (fun t => (t.getV 0, t.getV 1, t.getV 2, t.getV 3)) = some (0xF0, 0x90, 0x90, 0x77) := by decide
theorem test_load_instruction_stream :
    after ({ at200 0xF165 with i := 0x200 }) (fun t => (t.getV 0, t.getV 1)) = some (0xF1, 0x65) := by decide

/-! ## 2.5, random; 2.7, keypad; 2.8, timers -/

theorem test_rnd :
    after ({ withV (at200 0xC30F) [(3, 0x55)] with rnd := 0xB7 }) (pcAnd 3) = some (0x202, 7, 0) := by decide
/-- R150: the first draw after reset is free as well; nothing gives it a value. -/
theorem test_rnd_first_draw_is_free : after (at200 0xC0FF) (fun t => t.getV 0) = some (Config.rndInput 0 &&& 0xFF) := rfl
theorem test_rnd_vf :
    after ({ withV (at200 0xCFF0) [(3, 0x55)] with rnd := 0xAB }) (pcAnd 3) = some (0x202, 0x55, 0xA0) := by decide
theorem test_skp_down :
    after ({ withV (at200 0xE49E) [(4, 0x1A)] with key := 0x0400 }) State.pc = some 0x204 := by decide
theorem test_skp_up :
    after ({ withV (at200 0xE49E) [(4, 0x0A)] with key := 0xFBFF }) State.pc = some 0x202 := by decide
theorem test_sknp_up :
    after ({ withV (at200 0xE4A1) [(4, 0x0A)] with key := 0 }) State.pc = some 0x204 := by decide
theorem test_sknp_down :
    after ({ withV (at200 0xE4A1) [(4, 0xFF)] with key := 0x8000 }) State.pc = some 0x202 := by decide
theorem test_ldVxK_waits :
    after ({ withV (at200 0xF30A) [(3, 0x55)] with dt := 5, key := 0 }) (fun t => (t.pc, t.dt, t.getV 3)) = some (0x200, 4, 0x55) := by decide
theorem test_ldVxK_lowest :
    after ({ withV (at200 0xF30A) [(3, 0x55)] with key := 0x0280, dt := 4 }) (fun t => (t.pc, t.dt, t.getV 3)) = some (0x202, 3, 7) := by decide
theorem test_ldVxDt :
    after ({ at200 0xF507 with dt := 9 }) (fun t => (t.pc, t.dt, t.getV 5)) = some (0x202, 8, 9) := by decide
theorem test_ldDtVx_ticks :
    after (withV (at200 0xF515) [(5, 0x3C)]) State.dt = some 0x3B := by decide
theorem test_ldStVx_one_is_zero :
    after (withV (at200 0xF518) [(5, 0x01)]) State.st = some 0 := by decide

/-! ## 2.6, display: PC, VF and some pixels -/

/-- PC, VF and the words of some pixels. -/
def screen (px : List (Nat × Nat)) (t : State) : Word × Byte × List Pixel :=
  (t.pc, t.getV 0xF, px.map fun p => t.pixelAt p.1 p.2)

/-- A state with one pixel on. -/
def lit (s : State) (px py : Nat) : State := s.setFb (s.fb.setIfInBounds (py * 64 + px) pixelOn)

theorem test_drw_glyph0 :
    after ({ at200 0xD015 with i := 0x50 }) (screen [(0, 0), (3, 0), (4, 0), (0, 1), (1, 1), (3, 4), (3, 5)]) = some (0x202, 0, [pixelOn, pixelOn, 0, pixelOn, 0, pixelOn, 0]) := by decide +kernel
theorem test_drw_collision_at_edge :
    after (lit (withV { at200 0xD011 with i := 0x50 } [(0, 0x3E)]) 63 0) (screen [(62, 0), (63, 0), (0, 0), (1, 0), (0, 1)]) = some (0x202, 1, [pixelOn, 0, 0, 0, 0]) := by decide +kernel
theorem test_cls_keeps_vf :
    after (lit (withV (at200 0x0120) [(0xF, 1)]) 63 31) (screen [(63, 31), (0, 0)]) = some (0x202, 1, [0, 0]) := by decide +kernel

/-! ## The font and the host's ports -/

/-- The font has 80 bytes and glyph 0 is the document's (`10_state.md` R35). -/
theorem test_font : Config.font.length = 80 ∧ Config.font.take 5 = [0xF0, 0x90, 0x90, 0x90, 0xF0] := by decide

/-- The image of P1 of `95_test_vectors.md` section 3 is loaded and its first Step runs its first word. -/
theorem test_boot_p1 : (Ports.boot [0x60, 0x00, 0x61, 0x05]).map (fun s => (s.pc, s.fetchWord, s.readMem 0x203)) =
    some (0x200, 0x6000, 0x05) := by decide

/-- A write of the reset byte leaves no entry: memory stays in its canonical form. -/
theorem test_write_reset_byte : (State.reset.writeMem 0x300 1).mem = [(0x300, 1)] ∧
    ((State.reset.writeMem 0x300 1).writeMem 0x300 0).mem = [] ∧ (State.reset.writeMem 0x1050 0xF0).mem = [] := by decide

/-- Reset of a running machine leaves the fault (`70_reset_and_hazards.md` R206). -/
theorem test_reset_port : (Ports.reset { at200 0x00EE with fault := 1, pc := 5 }).fault = 0 := by decide

/-! ## Witnesses: the hypotheses of each statement can be met -/

theorem witness_DecodeInvertsEncode : (Instr.nop 0x0001).wf = true ∧ (Instr.drw 0xF 0xF 0xF).wf = true := by decide
theorem witness_IgnoredBitsHaveNoEffect :
    (Word.family 0x00E0 = Word.family 0x0120 ∧ Word.n 0x00E0 = Word.n 0x0120 ∧ Word.family 0x00E0 = 0x0) ∧
    (Word.family 0xE49E = Word.family 0xE40E ∧ Word.n 0xE49E = Word.n 0xE40E ∧ Word.family 0xE49E = 0xE ∧
      Word.x 0xE49E = Word.x 0xE40E) ∧
    (Word.family 0x8106 = Word.family 0x8126 ∧ Word.n 0x8106 = Word.n 0x8126 ∧ Word.family 0x8106 = 0x8 ∧
      Word.x 0x8106 = Word.x 0x8126 ∧ Word.n 0x8106 = 0x6) ∧
    (Word.family 0x810E = 0x8 ∧ Word.n 0x810E = 0xE ∧ Word.n 0x812E = 0xE ∧ Word.x 0x810E = Word.x 0x812E) := by decide
theorem witness_LowNibbleIgnoredInRegisterSkips :
    (Word.family 0x5120 = Word.family 0x512F ∧ Word.family 0x5120 = 0x5 ∧ Word.x 0x5120 = Word.x 0x512F ∧
      Word.y 0x5120 = Word.y 0x512F) ∧
    (Word.family 0x9120 = Word.family 0x9127 ∧ Word.family 0x9120 = 0x9 ∧ Word.x 0x9120 = Word.x 0x9127 ∧
      Word.y 0x9120 = Word.y 0x9127) := by decide

/-- A running machine. -/
theorem witness_running : State.reset.fault = 0 := by decide
/-- `StepRunsDecodedInstruction`: a Step that raises nothing and one that raises a fault. -/
theorem witness_StepRunsDecodedInstruction :
    (at200 0x6A42).fault = 0 ∧ after (at200 0x6A42) State.fault = some 0 ∧
    (at200 0x00EE).fault = 0 ∧ after (at200 0x00EE) State.fault = some 1 := by decide
theorem witness_FaultedMachineIsFrozen : ({ State.reset with fault := 2 }).fault ≠ 0 := by decide

/-- A Step answers a next state at any state; with `at200` it is a running one. -/
theorem step_answers (s : State) (h : s.fault = 0) : ∃ t, step s = .next t := by
  obtain ⟨t, ht⟩ := exec_next (decode s.fetchWord) s.advancePc
  exact ⟨_, step_running h ht⟩

/-- `StackViolationIsPrecise` and `FaultOutcomeNamesTheCause`: RET on an empty stack. -/
theorem witness_underflow : ∃ t, step (at200 0x00EE) = .next t ∧ (at200 0x00EE).fault = 0 ∧
    (at200 0x00EE).nextInstr = .ret 0x0E ∧ (at200 0x00EE).sp.val = 0 := by
  obtain ⟨t, h⟩ := step_answers (at200 0x00EE) (by decide)
  exact ⟨t, h, by decide, by decide, by decide⟩
/-- CALL on a full stack. -/
theorem witness_overflow : ∃ t, step { at200 0x2300 with sp := 16 } = .next t ∧
    ({ at200 0x2300 with sp := 16 }).fault = 0 ∧ ({ at200 0x2300 with sp := 16 }).nextInstr = .call 0x300 ∧
    ({ at200 0x2300 with sp := 16 }).sp.val = 16 := by
  obtain ⟨t, h⟩ := step_answers { at200 0x2300 with sp := 16 } (by decide)
  exact ⟨t, h, by decide, by decide, by decide⟩
/-- Neither: CALL with one slot left. -/
theorem witness_no_violation : ∃ t, step { at200 0x2300 with sp := 15 } = .next t ∧
    ({ at200 0x2300 with sp := 15 }).fault = 0 ∧ ({ at200 0x2300 with sp := 15 }).nextInstr = .call 0x300 ∧
    ({ at200 0x2300 with sp := 15 }).sp.val ≠ 16 := by
  obtain ⟨t, h⟩ := step_answers { at200 0x2300 with sp := 15 } (by decide)
  exact ⟨t, h, by decide, by decide, by decide⟩
/-- `StepKeepsInvariant`: a state with something in memory and a latched fault, and its next. -/
theorem witness_StepKeepsInvariant : ({ at200 0x00EE with fault := 1 }).Inv ∧ (at200 0x00EE).Inv ∧
    ∃ t, step (at200 0x00EE) = .next t := by
  have hfb : ∀ k, FrameBuffer.pixel (at200 0x00EE).fb k = 0 ∨ FrameBuffer.pixel (at200 0x00EE).fb k = pixelOn :=
    fun k => .inl (FrameBuffer.blank_pixel k)
  exact ⟨⟨by decide, hfb, by decide, by decide, by decide⟩, ⟨by decide, hfb, by decide, by decide, by decide⟩,
    step_answers _ (by decide)⟩
theorem witness_ResetValues : ∃ s r : State, s.fault = 1 ∧ r = Ports.reset s :=
  ⟨{ State.reset with fault := 1 }, _, by decide, rfl⟩
theorem witness_ParkedProgramStaysParked : (at200 0x1200).Parked := ⟨by decide, 0x200, by decide, by decide⟩
/-- `TimersTickOncePerStep`: a Step that writes DT, one that writes ST, at timer values 0 and 1; each raises nothing. -/
theorem witness_TimersTickOncePerStep :
    (at200 0xF515).nextInstr = .ldDtVx 5 ∧ after (at200 0xF515) State.fault = some 0 ∧
    (at200 0xF518).nextInstr = .ldStVx 5 ∧ after (at200 0xF518) State.fault = some 0 ∧
    after { at200 0x6000 with dt := 0, st := 1 } (fun t => (t.fault, t.dt, t.st)) = some (0, 0, 0) := by decide

theorem witness_CallPushesAndJumps : ({ State.reset with sp := 15 }).sp.val ≠ 16 ∧ ({ State.reset with sp := 16 }).sp.val = 16 := by
  decide
theorem witness_RetPopsIntoPc : ({ State.reset with sp := 1 }).sp.val ≠ 0 ∧ ({ State.reset with sp := 16 }).sp.val ≠ 0 ∧
    State.reset.sp.val = 0 := by decide
theorem witness_NopDoesNothing : (at200 0x0001).fault = 0 ∧ (at200 0x0001).nextInstr = .nop 0x0001 := by decide
/-- `AddRegistersSetsCarry` and its like: a destination that is not VF. -/
theorem witness_not_vf : (0xE : Nibble) ≠ 0xF := by decide
/-- `LdFPointsAtGlyph`: the last digit, and a value past it, for which the statement says nothing of I. -/
theorem witness_LdFPointsAtGlyph : ((State.reset.setV 0 15).getV 0).toNat ≤ 15 ∧ ¬ ((State.reset.setV 0 16).getV 0).toNat ≤ 15 := by
  decide
/-- `BcdStoresThreeDigits`, `DumpStoresV0ToVx`: an address outside the stored bytes, next to them, across the wrap. -/
theorem witness_outside_stored : (∀ k < 3, 1 % 4096 ≠ ({ State.reset with i := 0xFFE }).ea k % 4096) ∧
    (∀ k ≤ (0 : Nibble).toNat, 0 % 4096 ≠ ({ State.reset with i := 0xFFF }).ea k % 4096) := by decide
/-- `DumpStoresV0ToVx`, `LoadFillsV0ToVx`, `DumpThenLoadRestoresRegisters`: registers on both sides of x. -/
theorem witness_register_range : (0xF : Nibble).toNat ≤ (0xF : Nibble).toNat ∧ (2 : Nibble).toNat < (3 : Nibble).toNat := by decide
/-- `StoredBytesAreFetchedNext`: LD [I], V1 with I at the next instruction (as in P5 of `95_test_vectors.md`). -/
theorem witness_StoredBytesAreFetchedNext : ∃ t, step { at200 0xF155 with i := 0x202 } = .next t ∧
    ({ at200 0xF155 with i := 0x202 }).fault = 0 ∧ ({ at200 0xF155 with i := 0x202 }).nextInstr = .dump 1 ∧
    (0 : Nibble).toNat + 1 ≤ (1 : Nibble).toNat ∧ t.pc.toNat % 4096 = (0x202 + (0 : Nibble).toNat) % 4096 :=
  ⟨_, rfl, by decide, by decide, by decide, by decide⟩
theorem witness_CanonicalMemoryIsDeterminedByItsBytes : Memory.wf [(0x000, 1), (0x050, 0), (0xFFF, 2)] = true ∧
    Memory.wf [] = true := by decide
theorem witness_LoadPortPlacesTheImage : (List.replicate 3584 (0 : Byte)).length ≤ 3584 ∧
    3584 < (List.replicate 3585 (0 : Byte)).length := by rw [List.length_replicate, List.length_replicate]; omega
/-- `DrwXorsTheClippedSprite`: the first and the last pixel a glyph covers in the corner, one it does not cover. -/
theorem witness_DrwXorsTheClippedSprite :
    SpriteCovers { State.reset with i := 0x50 } 63 31 5 63 31 ∧ ¬ SpriteCovers { State.reset with i := 0x50 } 63 31 5 62 31 := by
  constructor
  · exact ⟨0, by decide, 0, by decide, rfl, rfl, by decide⟩
  · rintro ⟨r, _, c, _, h, _, _⟩; omega
/-- The same, with the pixel on before (a collision). -/
theorem witness_collision : ∃ px < 64, ∃ py < 32,
    SpriteCovers (lit { State.reset with i := 0x50 } 0 0) 0 0 5 px py ∧ (lit { State.reset with i := 0x50 } 0 0).pixelAt px py ≠ 0 :=
  ⟨0, by decide, 0, by decide, ⟨0, by decide, 0, by decide, rfl, rfl, by decide⟩, by decide +kernel⟩
/-- `DrawingTwiceRestoresTheDisplay`: the second draw at the same anchor, with the registers of the first. -/
theorem witness_DrawingTwiceRestoresTheDisplay : ∃ t, exec (.drw 0 1 5) { State.reset with i := 0x50 } = .next t ∧
    (t.getV 0).toNat % 64 = (({ State.reset with i := 0x50 } : State).getV 0).toNat % 64 ∧
    (t.getV 1).toNat % 32 = (({ State.reset with i := 0x50 } : State).getV 1).toNat % 32 := ⟨_, rfl, by decide, by decide⟩
/-- `WaitForKeyTakesTheLowest`: no key down; only the highest key down. -/
theorem witness_WaitForKeyTakesTheLowest : (∀ k < 16, ({ State.reset with key := 0x0000 }).key.getLsbD k = false) ∧
    ({ State.reset with key := 0x8000 }).key.getLsbD 15 = true ∧
    (∀ j < 15, ({ State.reset with key := 0x8000 }).key.getLsbD j = false) := by decide
/-- The statements about the whole machine: an instruction outside every exception, which has a next state. -/
theorem witness_whole_machine : ∃ t, exec (.jp 0x200) State.reset = .next t ∧ (∀ nnn, Instr.jp 0x200 ≠ .call nnn) ∧
    (∀ g, Instr.jp 0x200 ≠ .ret g) ∧ (∀ g, Instr.jp 0x200 ≠ .cls g) ∧ (∀ x y n, Instr.jp 0x200 ≠ .drw x y n) ∧
    (∀ x, Instr.jp 0x200 ≠ .ldB x) ∧ (∀ x, Instr.jp 0x200 ≠ .dump x) ∧ (∀ nnn, Instr.jp 0x200 ≠ .ldI nnn) ∧
    (∀ x, Instr.jp 0x200 ≠ .addI x) ∧ (∀ x, Instr.jp 0x200 ≠ .ldF x) ∧ (∀ x, Instr.jp 0x200 ≠ .ldDtVx x) ∧
    (∀ x, Instr.jp 0x200 ≠ .ldStVx x) ∧ (∀ x g, Instr.jp 0x200 ≠ .skp x g) ∧ (∀ x g, Instr.jp 0x200 ≠ .sknp x g) ∧
    (∀ x, Instr.jp 0x200 ≠ .ldVxK x) ∧ (∀ x kk, Instr.jp 0x200 ≠ .rnd x kk) := by
  refine ⟨_, rfl, ?_, ?_, ?_, ?_, ?_, ?_, ?_, ?_, ?_, ?_, ?_, ?_, ?_, ?_, ?_⟩ <;> intros <;> simp
/-- `WritersOfVf`: a flag writer that finds 0x55 in VF, and an instruction that is none of the six. -/
theorem witness_WritersOfVf : (∃ t, exec (.addReg 0 1) (State.reset.setV 0xF 0x55) = .next t ∧ t.getV 0xF = 0x00) ∧
    (∃ t, exec (.ldImm 0xF 0x55) State.reset = .next t ∧ t.getV 0xF = 0x55) ∧
    (∀ x y kk, Instr.ldImm 0xF kk ≠ .addReg x y ∧ Instr.ldImm 0xF kk ≠ .sub x y ∧ Instr.ldImm 0xF kk ≠ .shr x y ∧
      Instr.ldImm 0xF kk ≠ .subn x y ∧ Instr.ldImm 0xF kk ≠ .shl x y) ∧ (∀ x y n kk, Instr.ldImm 0xF kk ≠ .drw x y n) :=
  ⟨⟨_, rfl, by decide⟩, ⟨_, rfl, by decide⟩, by intros; simp, by intros; simp⟩
theorem witness_UpperBitsOfIndexAreUnobservable : (0x1050 : Word).toNat % 4096 = ({ State.reset with i := 0x50 }).i.toNat % 4096 ∧
    ∃ t, step { State.reset with i := 0x50 } = .next t := ⟨by decide, step_answers _ (by decide)⟩

end Sys2Proof.Tests
end

section
/-!
SUPPORT. The fetch in numbers: the proof of `Obligations.FetchIsBigEndian` and the two facts it rests on, the value of
two bytes put together and a read at an address already reduced.
-/

namespace Sys2Proof.Machine

/-- Two bytes, the most significant first, read as one number. -/
theorem toNat_byte_append (hi lo : Byte) : (hi ++ lo).toNat = 256 * hi.toNat + lo.toNat := by
  rw [BitVec.toNat_append, ← Nat.shiftLeft_add_eq_or_of_lt lo.isLt, Nat.shiftLeft_eq, Nat.mul_comm]

/-- R51: `MemRead` reduces its address itself, so a caller's reduction adds nothing. -/
@[simp] theorem State.readMem_mod (s : State) (a : Nat) : s.readMem (a % 4096) = s.readMem a :=
  congrArg s.mem.get (Nat.mod_mod a 4096)

/-- Settles O8: the fetched word is the two bytes of R53 put together, and each read reduces its address (R51). -/
theorem fetchIsBigEndian : Obligations.FetchIsBigEndian := by
  unfold Obligations.FetchIsBigEndian
  intro s
  rw [State.readMem_mod, State.readMem_mod]
  exact toNat_byte_append (s.readMem s.pc.toNat) (s.readMem (s.pc.toNat + 1))

end Sys2Proof.Machine
end

section
/-!
SUPPORT. The fields of an instruction word in numbers (`30_encoding.md` R71): one value lemma per field, from the value
of an extracted bit range, and the two overlapping fields as their parts put together; with them the proof of
`Obligations.FieldsOfTheWord`.
-/

namespace Sys2Proof

/-- The `len` bits from bit `start` up, as division and remainder. -/
theorem toNat_extractLsb'_eq_div_mod {w : Nat} (start len : Nat) (v : BitVec w) :
    (v.extractLsb' start len).toNat = v.toNat / 2 ^ start % 2 ^ len := by
  rw [BitVec.extractLsb'_toNat, Nat.shiftRight_eq_div_pow]

/-- The family needs no remainder: it is the top field of a word below 65536. -/
theorem Word.toNat_family (op : Word) : (Word.family op).toNat = op.toNat / 4096 :=
  (toNat_extractLsb'_eq_div_mod 12 4 op).trans
    (Nat.mod_eq_of_lt (Nat.div_lt_of_lt_mul (op.isLt : op.toNat < 4096 * 16)))

theorem Word.toNat_x (op : Word) : (Word.x op).toNat = op.toNat / 256 % 16 :=
  toNat_extractLsb'_eq_div_mod 8 4 op

theorem Word.toNat_y (op : Word) : (Word.y op).toNat = op.toNat / 16 % 16 :=
  toNat_extractLsb'_eq_div_mod 4 4 op

theorem Word.toNat_n (op : Word) : (Word.n op).toNat = op.toNat % 16 :=
  BitVec.extractLsb'_toNat 0 4 op

theorem Word.toNat_kk (op : Word) : (Word.kk op).toNat = op.toNat % 256 :=
  BitVec.extractLsb'_toNat 0 8 op

theorem Word.toNat_nnn (op : Word) : (Word.nnn op).toNat = op.toNat % 4096 :=
  BitVec.extractLsb'_toNat 0 12 op

/-- R71: bits 7 to 4 and 3 to 0 are adjacent, so y and n together are kk. -/
theorem Word.kk_eq_y_append_n (op : Word) : Word.kk op = Word.y op ++ Word.n op :=
  (BitVec.extractLsb'_append_extractLsb'_eq_extractLsb' (x := op) (start₁ := 0) (len₁ := 4) (len₂ := 4) rfl).symm

/-- R71: bits 11 to 8 and 7 to 0 are adjacent, so x and kk together are nnn. -/
theorem Word.nnn_eq_x_append_kk (op : Word) : Word.nnn op = Word.x op ++ Word.kk op :=
  (BitVec.extractLsb'_append_extractLsb'_eq_extractLsb' (x := op) (start₁ := 0) (len₁ := 8) (len₂ := 4) rfl).symm

theorem Word.nnn_eq_x_append_y_append_n (op : Word) : Word.nnn op = Word.x op ++ Word.y op ++ Word.n op := by
  rw [Word.nnn_eq_x_append_kk, Word.kk_eq_y_append_n, BitVec.append_assoc, BitVec.cast_eq]

/-- Settles O3: each field's value (R71), and the overlaps from the adjacency of the bit ranges. -/
theorem fieldsOfTheWord : Obligations.FieldsOfTheWord := by
  unfold Obligations.FieldsOfTheWord
  intro op
  exact ⟨Word.toNat_family op, Word.toNat_x op, Word.toNat_y op, Word.toNat_n op, Word.toNat_kk op,
    Word.toNat_nnn op, Word.nnn_eq_x_append_y_append_n op, Word.kk_eq_y_append_n op⟩

end Sys2Proof
end

section
/-!
SUPPORT. One timer tick in numbers (`48_timers.md` R175), and the Step around a NOP (`40_step.md` R93) in one equation;
with them the proof of `Obligations.NopDoesNothing`.
-/

namespace Sys2Proof.Machine

/-- R175: the guard of the tick is the truncation of the subtraction at 0. -/
theorem toNat_tickTimer (t : Byte) : (tickTimer t).toNat = ticked t := by
  unfold tickTimer ticked
  split
  · next h => exact BitVec.toNat_sub_of_le (x := t) (y := 1) h
  · next h => omega

/-- R93: with a handler that changes nothing, the Step is the PC advance and the end of a Step that raised nothing. -/
theorem step_nop {s : State} {op : Word} (hf : s.fault = 0) (hi : s.nextInstr = .nop op) :
    step s = .next s.advancePc.tick.sampleInputs := by
  have he : exec (decode s.fetchWord) s.advancePc = .next s.advancePc := congrArg (exec · s.advancePc) hi
  rw [step_running hf he, State.finish_running (t := s.advancePc) hf]

/-- Settles O24: the handler answers its own state, and every field after the Step is read off `step_nop`. -/
theorem nopDoesNothing : Obligations.NopDoesNothing := by
  unfold Obligations.NopDoesNothing
  intro op s
  refine ⟨rfl, fun hf hi => ⟨_, step_nop hf hi, rfl, ?_, ?_, rfl⟩⟩
  · exact toNat_tickTimer s.dt
  · exact toNat_tickTimer s.st

end Sys2Proof.Machine
end

section
/-!
SUPPORT. The absolute jump (`41_control_transfer.md` R100): the value of its target, and what a write of PC leaves
unchanged; with them the proof of `Obligations.JpSetsPc`.
-/

namespace Sys2Proof.Machine

/-- R73: `zext_16` keeps the value of the 12-bit field. -/
@[simp] theorem toNat_target (nnn : Addr12) : (target nnn).toNat = nnn.toNat :=
  BitVec.toNat_setWidth_of_le (by decide)

/-- Writing PC changes PC alone. -/
theorem State.frame_setPc (s : State) (w : Word) : Frame [] [.pc] s (s.setPc w) := by
  have hpc : Field.pc ∉ [Field.pc] → (s.setPc w).pc = s.pc := fun h => absurd (List.mem_singleton_self _) h
  exact ⟨fun _ _ => rfl, fun _ => rfl, hpc, fun _ => ⟨rfl, rfl⟩, fun _ => rfl, fun _ => rfl, fun _ => rfl,
    fun _ _ => rfl, fun _ => rfl, fun _ => rfl, rfl, rfl⟩

/-- R100: JP answers the state with PC overwritten by the target. -/
theorem exec_jp (nnn : Addr12) (s : State) : exec (.jp nnn) s = .next (s.setPc (target nnn)) := rfl

/-- Settles O19: JP is one write of PC, which holds the value of nnn and frames everything else. -/
theorem jpSetsPc : Obligations.JpSetsPc := by
  unfold Obligations.JpSetsPc
  intro nnn s
  exact ⟨s.setPc (target nnn), exec_jp nnn s, toNat_target nnn, State.frame_setPc s (target nnn)⟩

end Sys2Proof.Machine
end

section
/-!
SUPPORT. The shared skip (`42_skip.md` R110 to R113): its PC in numbers, its frame, and the two put together for any
instruction that answers a skip; with them the proof of `Obligations.SkipsCompareRegisters`.
-/

namespace Sys2Proof.Machine

/-- The skip's own mod 65536 is the wrap of the 16-bit PC. -/
theorem State.toNat_skipIf_pc (s : State) (c : Bool) :
    (s.skipIf c).pc.toNat = if c then (s.pc.toNat + 2) % 65536 else s.pc.toNat := by
  cases c
  case false => rfl
  case true => exact BitVec.toNat_add s.pc 2

/-- Taken or not, a skip is a write of PC. -/
theorem State.frame_skipIf (s : State) (c : Bool) : Frame [] [.pc] s (s.skipIf c) := by
  rw [State.skipIf_eq]
  exact State.frame_setPc s _

/-- What an instruction that answers `skipIf c` does, told by the condition `p` that `c` decides. -/
theorem exec_skips_iff {i : Instr} {s : State} {c : Bool} {p : Prop} [Decidable p]
    (he : exec i s = .next (s.skipIf c)) (hc : c = true ↔ p) :
    ∃ t, exec i s = .next t ∧ Frame [] [.pc] s t ∧
      t.pc.toNat = if p then (s.pc.toNat + 2) % 65536 else s.pc.toNat :=
  ⟨s.skipIf c, he, s.frame_skipIf c, (s.toNat_skipIf_pc c).trans (if_congr hc rfl rfl)⟩

/-- R110. -/
theorem exec_seImm (x : Nibble) (kk : Byte) (s : State) :
    exec (.seImm x kk) s = .next (s.skipIf (s.getV x == kk)) := rfl

/-- R111. -/
theorem exec_sneImm (x : Nibble) (kk : Byte) (s : State) :
    exec (.sneImm x kk) s = .next (s.skipIf (s.getV x != kk)) := rfl

/-- R112. -/
theorem exec_seReg (x y ign : Nibble) (s : State) :
    exec (.seReg x y ign) s = .next (s.skipIf (s.getV x == s.getV y)) := rfl

/-- R113. -/
theorem exec_sneReg (x y ign : Nibble) (s : State) :
    exec (.sneReg x y ign) s = .next (s.skipIf (s.getV x != s.getV y)) := rfl

/-- Settles O25: each instruction is one skip, whose condition on bytes is the comparison of their values. -/
theorem skipsCompareRegisters : Obligations.SkipsCompareRegisters := by
  unfold Obligations.SkipsCompareRegisters
  intro x y ign kk s
  have equal (a b : Byte) : (a == b) = true ↔ a.toNat = b.toNat := beq_iff_eq.trans BitVec.toNat_inj.symm
  have different (a b : Byte) : (a != b) = true ↔ a.toNat ≠ b.toNat := bne_iff_ne.trans BitVec.toNat_ne_iff_ne.symm
  exact ⟨exec_skips_iff (exec_seImm x kk s) (equal _ _), exec_skips_iff (exec_sneImm x kk s) (different _ _),
    exec_skips_iff (exec_seReg x y ign s) (equal _ _), exec_skips_iff (exec_sneReg x y ign s) (different _ _)⟩

end Sys2Proof.Machine
end

section
/-!
SUPPORT. The instructions whose one effect is a write of Vx (`43_alu.md` R122 to R127): what such a write leaves
unchanged, and each of them as one such write; with them the proofs of `Obligations.ImmediateFormsWriteVx` and
`Obligations.MoveAndLogicWriteVx`.
-/

namespace Sys2Proof.Machine

/-- The register written is not hard-wired (R20). -/
theorem State.setV_getV_self (s : State) (x : Nibble) (b : Byte) : (s.setV x b).getV x = b :=
  (s.setV_getV x b x).trans (if_pos rfl)

/-- Writing Vx changes Vx alone: VF too is kept, unless it is the destination. -/
theorem State.frame_setV (s : State) (x : Nibble) (b : Byte) : Frame [x] [] s (s.setV x b) := by
  have others (r : Nibble) (hr : r ∉ [x]) : (s.setV x b).getV r = s.getV r :=
    (s.setV_getV x b r).trans (if_neg (mt List.mem_singleton.mpr hr))
  exact ⟨others, fun _ => rfl, fun _ => rfl, fun _ => ⟨rfl, rfl⟩, fun _ => rfl, fun _ => rfl, fun _ => rfl,
    fun _ _ => rfl, fun _ => rfl, fun _ => rfl, rfl, rfl⟩

/-- What an instruction that answers `setV x b` does, told by any property `P` of the byte written. -/
theorem exec_writes_getV {i : Instr} {s : State} {x : Nibble} {b : Byte} (P : Byte → Prop)
    (he : exec i s = .next (s.setV x b)) (hb : P b) :
    ∃ t, exec i s = .next t ∧ P (t.getV x) ∧ Frame [x] [] s t :=
  ⟨s.setV x b, he, (s.setV_getV_self x b).symm ▸ hb, s.frame_setV x b⟩

/-- What an instruction that writes a byte made of `a` and `b` by the operation `f` on each pair of bits does. -/
theorem exec_writes_bitwise {i : Instr} {s : State} {x : Nibble} {a b c : Byte} (f : Bool → Bool → Bool)
    (he : exec i s = .next (s.setV x c)) (hc : ∀ j, c.getLsbD j = f (a.getLsbD j) (b.getLsbD j)) :
    ∃ t, exec i s = .next t ∧ (∀ j, (t.getV x).getLsbD j = f (a.getLsbD j) (b.getLsbD j)) ∧ Frame [x] [] s t :=
  exec_writes_getV (fun r => ∀ j, r.getLsbD j = f (a.getLsbD j) (b.getLsbD j)) he hc

/-- R122. -/
theorem exec_ldImm (x : Nibble) (kk : Byte) (s : State) : exec (.ldImm x kk) s = .next (s.setV x kk) := rfl

/-- R123. -/
theorem exec_addImm (x : Nibble) (kk : Byte) (s : State) :
    exec (.addImm x kk) s = .next (s.setV x (s.getV x + kk)) := rfl

/-- R124. -/
theorem exec_ldReg (x y : Nibble) (s : State) : exec (.ldReg x y) s = .next (s.setV x (s.getV y)) := rfl

/-- R125. -/
theorem exec_orReg (x y : Nibble) (s : State) :
    exec (.orReg x y) s = .next (s.setV x (s.getV x ||| s.getV y)) := rfl

/-- R126. -/
theorem exec_andReg (x y : Nibble) (s : State) :
    exec (.andReg x y) s = .next (s.setV x (s.getV x &&& s.getV y)) := rfl

/-- R127. -/
theorem exec_xorReg (x y : Nibble) (s : State) :
    exec (.xorReg x y) s = .next (s.setV x (s.getV x ^^^ s.getV y)) := rfl

/-- Settles O26: each form is one write of Vx; the sum of bytes is the sum of their values modulo 256. -/
theorem immediateFormsWriteVx : Obligations.ImmediateFormsWriteVx := by
  unfold Obligations.ImmediateFormsWriteVx
  intro x kk s
  have sum := BitVec.toNat_add (s.getV x) kk
  exact ⟨exec_writes_getV (· = kk) (exec_ldImm x kk s) rfl,
    exec_writes_getV (·.toNat = ((s.getV x).toNat + kk.toNat) % 256) (exec_addImm x kk s) sum⟩

/-- Settles O27: each instruction is one write of Vx, and the logical operations on bytes act bit by bit. -/
theorem moveAndLogicWriteVx : Obligations.MoveAndLogicWriteVx := by
  unfold Obligations.MoveAndLogicWriteVx
  intro x y s
  exact ⟨exec_writes_getV (· = s.getV y) (exec_ldReg x y s) rfl,
    exec_writes_bitwise or (exec_orReg x y s) fun _ => BitVec.getLsbD_or,
    exec_writes_bitwise and (exec_andReg x y s) fun _ => BitVec.getLsbD_and,
    exec_writes_bitwise xor (exec_xorReg x y s) fun _ => BitVec.getLsbD_xor⟩

end Sys2Proof.Machine
end

section
/-!
SUPPORT. RND (`45_random.md` R151) as one write of Vx, and the proof of `Obligations.RndMasksTheDraw`.
-/

namespace Sys2Proof.Machine

/-- R151. -/
theorem exec_rnd (x : Nibble) (kk : Byte) (s : State) : exec (.rnd x kk) s = .next (s.setV x (s.rnd &&& kk)) := rfl

/-- Settles O41: RND is one write of Vx, and the mask acts on the random byte bit by bit. -/
theorem rndMasksTheDraw : Obligations.RndMasksTheDraw := by
  unfold Obligations.RndMasksTheDraw
  intro x kk s
  exact exec_writes_bitwise and (exec_rnd x kk s) fun _ => BitVec.getLsbD_and

end Sys2Proof.Machine
end

section
/-!
SUPPORT. CLS (`46_display.md` R157) as one write of the frame buffer: what the host reads of a blank frame buffer, and
what a write of the frame buffer leaves unchanged; with them the proof of `Obligations.ClsBlanksTheDisplay`.
-/

namespace Sys2Proof.Machine

/-- Writing the frame buffer changes the frame buffer alone. -/
theorem State.frame_setFb (s : State) (f : FrameBuffer) : Frame [] [.fb] s (s.setFb f) := by
  have hfb : Field.fb ∉ [Field.fb] → (s.setFb f).fb = s.fb := fun h => absurd (List.mem_singleton_self _) h
  exact ⟨fun _ _ => rfl, fun _ => rfl, fun _ => rfl, fun _ => ⟨rfl, rfl⟩, fun _ => rfl, fun _ => rfl, hfb,
    fun _ _ => rfl, fun _ => rfl, fun _ => rfl, rfl, rfl⟩

/-- The host's port answers 0 at every index of a blank frame buffer. -/
theorem Ports.fbData_setFb_blank (s : State) {k : Nat} (hk : k < Config.fbSize) :
    Ports.fbData (s.setFb FrameBuffer.blank) k = some 0 :=
  Vector.getElem?_replicate.trans (if_pos hk)

/-- R157. -/
theorem exec_cls (g : Byte) (s : State) : exec (.cls g) s = .next (s.setFb FrameBuffer.blank) := rfl

/-- Settles O42: CLS is one write of the frame buffer, whose size is the W * H of the display. -/
theorem clsBlanksTheDisplay : Obligations.ClsBlanksTheDisplay := by
  unfold Obligations.ClsBlanksTheDisplay
  intro g s
  exact ⟨s.setFb FrameBuffer.blank, exec_cls g s, fun _ hk => Ports.fbData_setFb_blank s hk,
    State.frame_setFb s FrameBuffer.blank⟩

end Sys2Proof.Machine
end

section
/-!
SUPPORT. The moves between Vx and the timers (`48_timers.md` R176 to R178): what a write of DT or ST leaves unchanged,
and each instruction as one write; with them the proof of `Obligations.TimerMoves`.
-/

namespace Sys2Proof.Machine

/-- Writing DT changes DT alone. -/
theorem State.frame_setDt (s : State) (b : Byte) : Frame [] [.dt] s (s.setDt b) := by
  have hdt : Field.dt ∉ [Field.dt] → (s.setDt b).dt = s.dt := fun h => absurd (List.mem_singleton_self _) h
  exact ⟨fun _ _ => rfl, fun _ => rfl, fun _ => rfl, fun _ => ⟨rfl, rfl⟩, hdt, fun _ => rfl, fun _ => rfl,
    fun _ _ => rfl, fun _ => rfl, fun _ => rfl, rfl, rfl⟩

/-- Writing ST changes ST alone. -/
theorem State.frame_setSt (s : State) (b : Byte) : Frame [] [.st] s (s.setSt b) := by
  have hst : Field.st ∉ [Field.st] → (s.setSt b).st = s.st := fun h => absurd (List.mem_singleton_self _) h
  exact ⟨fun _ _ => rfl, fun _ => rfl, fun _ => rfl, fun _ => ⟨rfl, rfl⟩, fun _ => rfl, hst, fun _ => rfl,
    fun _ _ => rfl, fun _ => rfl, fun _ => rfl, rfl, rfl⟩

/-- R176. -/
theorem exec_ldVxDt (x : Nibble) (s : State) : exec (.ldVxDt x) s = .next (s.setV x s.dt) := rfl

/-- R177. -/
theorem exec_ldDtVx (x : Nibble) (s : State) : exec (.ldDtVx x) s = .next (s.setDt (s.getV x)) := rfl

/-- R178. -/
theorem exec_ldStVx (x : Nibble) (s : State) : exec (.ldStVx x) s = .next (s.setSt (s.getV x)) := rfl

/-- Settles O47: each instruction is one write, of Vx, of DT or of ST. -/
theorem timerMoves : Obligations.TimerMoves := by
  unfold Obligations.TimerMoves
  intro x s
  exact ⟨exec_writes_getV (· = s.dt) (exec_ldVxDt x s) rfl,
    ⟨s.setDt (s.getV x), exec_ldDtVx x s, s.setDt_dt (s.getV x), s.frame_setDt (s.getV x)⟩,
    ⟨s.setSt (s.getV x), exec_ldStVx x s, s.setSt_st (s.getV x), s.frame_setSt (s.getV x)⟩⟩

end Sys2Proof.Machine
end

section
/-!
SUPPORT. Decoding and encoding (`30_encoding.md`): reading a field back out of a word put together from fields, and
putting a word together from its own fields; the words that are NOP; with them the proofs of
`Obligations.DecodeInvertsEncode`, `Obligations.EncodeInvertsDecode`, `Obligations.UnmappedSlotsAreNop`,
`Obligations.SpecWordsDecode`, `Obligations.IgnoredBitsHaveNoEffect` and `Obligations.LowNibbleIgnoredInRegisterSkips`.
-/

namespace Sys2Proof
open Laws.FamilyNibble

/-! ### Fields of a word put together from fields -/

/-- The lowest field. -/
theorem extractLsb'_append_low {p q : Nat} (a : BitVec p) (b : BitVec q) : (a ++ b).extractLsb' 0 q = b := by
  rw [BitVec.extractLsb'_append_eq_of_add_le (by omega), BitVec.extractLsb'_eq_self]

/-- The field just above the lowest one. -/
theorem extractLsb'_append_mid {p q r : Nat} (a : BitVec p) (b : BitVec q) (c : BitVec r) :
    (a ++ b ++ c).extractLsb' r q = b := by
  rw [BitVec.extractLsb'_append_eq_of_le le_rfl, Nat.sub_self, extractLsb'_append_low]

@[simp] theorem Word.x_append (f x y n : Nibble) : Word.x (f ++ x ++ y ++ n) = x :=
  (BitVec.extractLsb'_append_eq_of_le (xhi := f ++ x ++ y) (xlo := n) (by decide)).trans (extractLsb'_append_mid f x y)

@[simp] theorem Word.y_append (f x y n : Nibble) : Word.y (f ++ x ++ y ++ n) = y := extractLsb'_append_mid (f ++ x) y n

@[simp] theorem Word.n_append (f x y n : Nibble) : Word.n (f ++ x ++ y ++ n) = n :=
  extractLsb'_append_low (f ++ x ++ y) n

@[simp] theorem Word.x_append_kk (f x : Nibble) (kk : Byte) : Word.x (f ++ x ++ kk) = x := extractLsb'_append_mid f x kk

@[simp] theorem Word.kk_append (f x : Nibble) (kk : Byte) : Word.kk (f ++ x ++ kk) = kk :=
  extractLsb'_append_low (f ++ x) kk

@[simp] theorem Word.nnn_append (f : Nibble) (nnn : Addr12) : Word.nnn (f ++ nnn) = nnn := extractLsb'_append_low f nnn

@[simp] theorem Word.n_append_ign (f : Nibble) (ign : Byte) (n : Nibble) : Word.n (f ++ ign ++ n) = n :=
  extractLsb'_append_low (f ++ ign) n

@[simp] theorem Word.ign_append (f : Nibble) (ign : Byte) (n : Nibble) :
    BitVec.extractLsb' (n := 16) 4 8 (f ++ ign ++ n) = ign :=
  extractLsb'_append_mid f ign n

/-! ### A word put together from its own fields -/

theorem Word.eq_append_nnn {op : Word} {f : Nibble} (hf : (Word.family op).toNat = f.toNat) :
    f ++ Word.nnn op = op := by
  obtain rfl := BitVec.eq_of_toNat_eq hf
  exact BitVec.extractLsb'_append_extractLsb' (w := 4) (len := 12)

theorem Word.eq_append_x_kk {op : Word} {f : Nibble} (hf : (Word.family op).toNat = f.toNat) :
    f ++ Word.x op ++ Word.kk op = op := by
  rw [BitVec.append_assoc, BitVec.cast_eq, ← Word.nnn_eq_x_append_kk]
  exact Word.eq_append_nnn hf

theorem Word.eq_append_x_y_n {op : Word} {f n : Nibble} (hf : (Word.family op).toNat = f.toNat)
    (hn : (Word.n op).toNat = n.toNat) : f ++ Word.x op ++ Word.y op ++ n = op := by
  obtain rfl := BitVec.eq_of_toNat_eq hn
  rw [BitVec.append_assoc, BitVec.cast_eq, ← Word.kk_eq_y_append_n]
  exact Word.eq_append_x_kk hf

theorem Word.eq_append_x_sel {op : Word} {f : Nibble} {kk : Byte} (hf : (Word.family op).toNat = f.toNat)
    (hk : (Word.kk op).toNat = kk.toNat) : f ++ Word.x op ++ kk = op := by
  obtain rfl := BitVec.eq_of_toNat_eq hk
  exact Word.eq_append_x_kk hf

theorem Word.eq_append_ign_n {op : Word} {f n : Nibble} (hf : (Word.family op).toNat = f.toNat)
    (hn : (Word.n op).toNat = n.toNat) : f ++ op.extractLsb' 4 8 ++ n = op := by
  have hnnn : op.extractLsb' 4 8 ++ Word.n op = Word.nnn op :=
    BitVec.extractLsb'_append_extractLsb'_eq_extractLsb' (start₁ := 0) (len₁ := 4) (len₂ := 8) rfl
  obtain rfl := BitVec.eq_of_toNat_eq hn
  rw [BitVec.append_assoc, BitVec.cast_eq, hnnn]
  exact Word.eq_append_nnn hf

/-- R53: the two bytes of a word, high byte first. -/
theorem Word.hi_append_lo (op : Word) : Word.hi op ++ Word.lo op = op :=
  BitVec.extractLsb'_append_extractLsb' (w := 8) (len := 8)

/-! ### The words that are NOP -/

theorem decodeFamily0_eq_nop (op : Word) : decodeFamily0 op = .nop op ↔ Word.n op ∉ [0x0#4, 0xE#4] := by
  unfold decodeFamily0; split <;> simp_all [BitVec.toNat_eq]

theorem decodeFamily8_eq_nop (op : Word) : decodeFamily8 op = .nop op ↔
    Word.n op ∉ [0x0#4, 0x1#4, 0x2#4, 0x3#4, 0x4#4, 0x5#4, 0x6#4, 0x7#4, 0xE#4] := by
  unfold decodeFamily8; split <;> simp_all [BitVec.toNat_eq]

theorem decodeFamilyE_eq_nop (op : Word) : decodeFamilyE op = .nop op ↔ Word.n op ∉ [0xE#4, 0x1#4] := by
  unfold decodeFamilyE; split <;> simp_all [BitVec.toNat_eq]

theorem decodeFamilyF_eq_nop (op : Word) : decodeFamilyF op = .nop op ↔
    Word.kk op ∉ [0x07#8, 0x0A#8, 0x15#8, 0x18#8, 0x1E#8, 0x29#8, 0x33#8, 0x55#8, 0x65#8] := by
  unfold decodeFamilyF; split <;> simp_all [BitVec.toNat_eq]

/-- Settles O5: only the four secondary tables answer NOP, each for the selectors it does not list. -/
theorem unmappedSlotsAreNop : Obligations.UnmappedSlotsAreNop := by
  unfold Obligations.UnmappedSlotsAreNop
  intro op
  rw [← decodeFamily0_eq_nop, ← decodeFamily8_eq_nop, ← decodeFamilyE_eq_nop, ← decodeFamilyF_eq_nop]
  have hlt := (Word.family op).isLt
  unfold decode
  split
  case h_16 => 
    have hF : (Word.family op).toNat = 15 := by simp only [imp_false] at *; omega
    simp [BitVec.toNat_eq, hF]
  all_goals next hf => simp [BitVec.toNat_eq, hf]

/-- R78: the slots that well-formedness calls unmapped are the words that decode to NOP. -/
theorem unmappedSlot_iff (op : Word) : unmappedSlot op = true ↔ decode op = .nop op := by
  rw [unmappedSlotsAreNop op]
  unfold unmappedSlot
  rw [← Word.toNat_family, ← Word.toNat_n, ← Word.toNat_kk]
  split <;> simp_all [BitVec.toNat_eq]

/-! ### Decoding an encoding -/

/-- Each field is read back from its place, and family and selector choose the instruction's own row (R76). -/
theorem decode_encode {i : Instr} (h : i.wf = true) : decode (encode i) = i := by
  cases i
  case nop op => exact (unmappedSlot_iff op).mp h
  all_goals
    simp [encode, decode, decodeFamily0, decodeFamily8, decodeFamilyE, decodeFamilyF, family_append, family_append_4_8,
      family_append_4_4_4, family_append_8_4]

/-- Settles O1: R77 on the word, and the same on its two bytes, which put together are the word. -/
theorem decodeInvertsEncode : Obligations.DecodeInvertsEncode := by
  unfold Obligations.DecodeInvertsEncode
  intro i rest h
  refine ⟨decode_encode h, ?_⟩
  show Except.ok (decode (Word.hi (encode i) ++ Word.lo (encode i)), rest) = _
  rw [Word.hi_append_lo, decode_encode h]

/-! ### Encoding a decoding -/

/-- The word NOP keeps is the one decoded. -/
theorem eq_of_decode_eq_nop {op w : Word} (h : decode op = .nop w) : op = w := by
  simp only [decode, decodeFamily0, decodeFamily8, decodeFamilyE, decodeFamilyF] at h
  repeat' split at h
  all_goals cases h
  all_goals rfl

/-- Only NOP has a condition to meet, and `decode` answers it for the unmapped slots alone. -/
theorem decode_wf (op : Word) : (decode op).wf = true := by
  cases hd : decode op
  case nop w =>
    obtain rfl := eq_of_decode_eq_nop hd
    exact (unmappedSlot_iff op).mpr hd
  all_goals rfl

theorem encode_decodeFamily0 {op : Word} (hf : (Word.family op).toNat = 0) : encode (decodeFamily0 op) = op := by
  unfold decodeFamily0
  split
  case h_3 => rfl
  all_goals next hn => exact Word.eq_append_ign_n hf hn

theorem encode_decodeFamily8 {op : Word} (hf : (Word.family op).toNat = 8) : encode (decodeFamily8 op) = op := by
  unfold decodeFamily8
  split
  case h_10 => rfl
  all_goals next hn => exact Word.eq_append_x_y_n hf hn

theorem encode_decodeFamilyE {op : Word} (hf : (Word.family op).toNat = 14) : encode (decodeFamilyE op) = op := by
  unfold decodeFamilyE
  split
  case h_3 => rfl
  all_goals next hn => exact Word.eq_append_x_y_n hf hn

theorem encode_decodeFamilyF {op : Word} (hf : (Word.family op).toNat = 15) : encode (decodeFamilyF op) = op := by
  unfold decodeFamilyF
  split
  case h_10 => rfl
  all_goals next hk => exact Word.eq_append_x_sel hf hk

/-- Every row of the primary table keeps all fields of the word (log 23), so they put it together again. -/
theorem encode_decode (op : Word) : encode (decode op) = op := by
  have hlt := (Word.family op).isLt
  unfold decode
  split
  case h_1 hf => exact encode_decodeFamily0 hf
  case h_9 hf => exact encode_decodeFamily8 hf
  case h_15 hf => exact encode_decodeFamilyE hf
  case h_16 => exact encode_decodeFamilyF (by simp only [imp_false] at *; omega)
  case h_2 hf | h_3 hf | h_11 hf | h_12 hf => exact Word.eq_append_nnn hf
  case h_4 hf | h_5 hf | h_7 hf | h_8 hf | h_13 hf => exact Word.eq_append_x_kk hf
  case h_6 hf | h_10 hf | h_14 hf => exact Word.eq_append_x_y_n hf rfl

/-- Settles O2: the decoding is well-formed, and the fields it took from the word put the word together again. -/
theorem encodeInvertsDecode : Obligations.EncodeInvertsDecode := by
  unfold Obligations.EncodeInvertsDecode
  exact fun op => ⟨decode_wf op, encode_decode op⟩

/-- Settles O4: sixteen closed evaluations of the decoder. -/
theorem specWordsDecode : Obligations.SpecWordsDecode := by
  unfold Obligations.SpecWordsDecode
  decide

/-! ### Ignored bits -/

theorem decode_of_family_0 {op : Word} (hf : Word.family op = 0x0) : decode op = decodeFamily0 op := by
  simp [decode, hf]

theorem decode_of_family_E {op : Word} (hf : Word.family op = 0xE) : decode op = decodeFamilyE op := by
  simp [decode, hf]

theorem decode_shr {op : Word} (hf : Word.family op = 0x8) (hn : Word.n op = 0x6) :
    decode op = .shr (Word.x op) (Word.y op) := by
  simp [decode, decodeFamily8, hf, hn]

theorem decode_shl {op : Word} (hf : Word.family op = 0x8) (hn : Word.n op = 0xE) :
    decode op = .shl (Word.x op) (Word.y op) := by
  simp [decode, decodeFamily8, hf, hn]

theorem decode_seReg {op : Word} (hf : Word.family op = 0x5) :
    decode op = .seReg (Word.x op) (Word.y op) (Word.n op) := by
  simp [decode, hf]

theorem decode_sneReg {op : Word} (hf : Word.family op = 0x9) :
    decode op = .sneReg (Word.x op) (Word.y op) (Word.n op) := by
  simp [decode, hf]

/-- Settles O6: the tables of families 0 and E use the low nibble and x alone, and SHR and SHL read no y. -/
theorem ignoredBitsHaveNoEffect : Obligations.IgnoredBitsHaveNoEffect := by
  unfold Obligations.IgnoredBitsHaveNoEffect
  rintro op op' s hf hn (h0 | ⟨hE, hx⟩ | ⟨h8, hx, h6 | hE⟩)
  · rw [decode_of_family_0 h0, decode_of_family_0 (hf ▸ h0), decodeFamily0, decodeFamily0, hn]
    split <;> rfl
  · rw [decode_of_family_E hE, decode_of_family_E (hf ▸ hE), decodeFamilyE, decodeFamilyE, hn, hx]
    split <;> rfl
  · rw [decode_shr h8 h6, decode_shr (hf ▸ h8) (hn ▸ h6), hx]
    rfl
  · rw [decode_shl h8 hE, decode_shl (hf ▸ h8) (hn ▸ hE), hx]
    rfl

/-- Settles O7: the register skips read x and y alone. -/
theorem lowNibbleIgnoredInRegisterSkips : Obligations.LowNibbleIgnoredInRegisterSkips := by
  unfold Obligations.LowNibbleIgnoredInRegisterSkips
  rintro op op' s hf (h5 | h9) hx hy
  · rw [decode_seReg h5, decode_seReg (hf ▸ h5), hx, hy]
    rfl
  · rw [decode_sneReg h9, decode_sneReg (hf ▸ h9), hx, hy]
    rfl

end Sys2Proof
end

section
/-!
SUPPORT. How frames are widened and composed, and the frames of the stack and of the fault latch; with them the proofs
of `Obligations.JpV0AddsV0`, `Obligations.CallPushesAndJumps`, `Obligations.RetPopsIntoPc` and
`Obligations.CallThenReturnRoundTrip` (`41_control_transfer.md` R101 to R103, `60_exceptions.md` R186 to R188).
-/

namespace Sys2Proof.Machine

/-! ### Frames -/

/-- A frame that allows more is implied by one that allows less. -/
theorem Frame.mono {R R' : List Nibble} {F F' : List Field} {s t : State} (hR : R ⊆ R') (hF : F ⊆ F')
    (h : Frame R F s t) : Frame R' F' s t := by
  obtain ⟨hv, hi, hpc, hsp, hdt, hst, hfb, hmem, hfault, hdraws, hkey, hrnd⟩ := h
  have widen {f : Field} {p : Prop} (hp : f ∉ F → p) : f ∉ F' → p := fun hf => hp fun hm => hf (hF hm)
  exact ⟨fun r hr => hv r fun hm => hr (hR hm), widen hi, widen hpc, widen hsp, widen hdt, widen hst, widen hfb,
    widen hmem, widen hfault, widen hdraws, hkey, hrnd⟩

/-- Two changes one after another stay in a frame that both stay in. -/
theorem Frame.trans {R : List Nibble} {F : List Field} {s t u : State} (h : Frame R F s t) (h' : Frame R F t u) :
    Frame R F s u := by
  obtain ⟨hv, hi, hpc, hsp, hdt, hst, hfb, hmem, hfault, hdraws, hkey, hrnd⟩ := h
  obtain ⟨hv', hi', hpc', hsp', hdt', hst', hfb', hmem', hfault', hdraws', hkey', hrnd'⟩ := h'
  exact ⟨fun r hr => (hv' r hr).trans (hv r hr), fun hf => (hi' hf).trans (hi hf), fun hf => (hpc' hf).trans (hpc hf),
    fun hf => ⟨(hsp' hf).1.trans (hsp hf).1, (hsp' hf).2.trans (hsp hf).2⟩, fun hf => (hdt' hf).trans (hdt hf),
    fun hf => (hst' hf).trans (hst hf), fun hf => (hfb' hf).trans (hfb hf),
    fun hf a => (hmem' hf a).trans (hmem hf a), fun hf => (hfault' hf).trans (hfault hf),
    fun hf => (hdraws' hf).trans (hdraws hf), hkey'.trans hkey, hrnd'.trans hrnd⟩

/-- No change at all. -/
theorem Frame.refl (R : List Nibble) (F : List Field) (s : State) : Frame R F s s :=
  ⟨fun _ _ => rfl, fun _ => rfl, fun _ => rfl, fun _ => ⟨rfl, rfl⟩, fun _ => rfl, fun _ => rfl, fun _ => rfl,
    fun _ _ => rfl, fun _ => rfl, fun _ => rfl, rfl, rfl⟩

/-- Pushing changes the stack alone. -/
theorem State.frame_push (s : State) (w : Word) : Frame [] [.stack] s (s.push w) :=
  ⟨fun _ _ => rfl, fun _ => rfl, fun _ => rfl, fun h => absurd (List.mem_singleton_self _) h, fun _ => rfl,
    fun _ => rfl, fun _ => rfl, fun _ _ => rfl, fun _ => rfl, fun _ => rfl, rfl, rfl⟩

/-- Popping changes the stack alone. -/
theorem State.frame_drop (s : State) : Frame [] [.stack] s s.drop :=
  ⟨fun _ _ => rfl, fun _ => rfl, fun _ => rfl, fun h => absurd (List.mem_singleton_self _) h, fun _ => rfl,
    fun _ => rfl, fun _ => rfl, fun _ _ => rfl, fun _ => rfl, fun _ => rfl, rfl, rfl⟩

/-- Taking the fault changes PC and the latch alone. -/
theorem State.frame_raise (s : State) (f : Fault) : Frame [] [.pc, .fault] s (s.raise f) :=
  ⟨fun _ _ => rfl, fun _ => rfl, fun h => absurd (List.mem_cons_self ..) h, fun _ => ⟨rfl, rfl⟩, fun _ => rfl,
    fun _ => rfl, fun _ => rfl, fun _ _ => rfl, fun h => absurd (List.mem_cons_of_mem _ (List.mem_singleton_self _)) h,
    fun _ => rfl, rfl, rfl⟩

/-- A change of the stack and then a jump. -/
theorem Frame.setPc_of_stack {s t : State} (h : Frame [] [.stack] s t) (w : Word) :
    Frame [] [.pc, .stack] s (t.setPc w) :=
  (h.mono (List.Subset.refl _) (List.subset_cons_self ..)).trans
    ((t.frame_setPc w).mono (List.Subset.refl _) (by simp))

/-! ### The jump through V0 -/

/-- `zext_16` keeps the value of a byte. -/
@[simp] theorem toNat_wide (b : Byte) : (wide b).toNat = b.toNat := BitVec.toNat_setWidth_of_le (by decide)

/-- R103. -/
theorem exec_jpV0 (nnn : Addr12) (s : State) :
    exec (.jpV0 nnn) s = .next (s.setPc (wide (s.getV 0) + target nnn)) := rfl

/-- Settles O20: a byte and a 12-bit address add up to less than 65536. -/
theorem jpV0AddsV0 : Obligations.JpV0AddsV0 := by
  unfold Obligations.JpV0AddsV0
  intro nnn s
  refine ⟨_, exec_jpV0 nnn s, ?_, s.frame_setPc _⟩
  have hV0 := (s.getV 0).isLt
  have hnnn := nnn.isLt
  rw [State.setPc_pc, BitVec.toNat_add, toNat_wide, toNat_target]
  omega

/-! ### CALL and RET -/

/-- R101 on a full stack. -/
theorem exec_call_full {s : State} (h : s.sp.val = 16) (nnn : Addr12) :
    exec (.call nnn) s = .next (s.raise .stackOverflow) := if_pos (Fin.ext h)

/-- R101 below a full stack. -/
theorem exec_call {s : State} (h : s.sp.val ≠ 16) (nnn : Addr12) :
    exec (.call nnn) s = .next ((s.push s.pc).setPc (target nnn)) := if_neg fun e => h (congrArg Fin.val e)

/-- R102 on an empty stack. -/
theorem exec_ret_empty {s : State} (h : s.sp.val = 0) (g : Byte) :
    exec (.ret g) s = .next (s.raise .stackUnderflow) := if_pos (Fin.ext h)

/-- R102 with a return address held. -/
theorem exec_ret {s : State} (h : s.sp.val ≠ 0) (g : Byte) : exec (.ret g) s = .next (s.drop.setPc s.top) :=
  if_neg fun e => h (congrArg Fin.val e)

/-- The slot that RET reads is there: SP is at most 16. -/
theorem State.some_top (s : State) : some s.top = s.stack[s.sp.val - 1]? := by
  have hlt : s.sp.val - 1 < 16 := by have := s.sp.isLt; omega
  unfold State.top
  rw [Vector.getElem?_eq_getElem hlt, Option.getD_some]

/-- A state that holds the stack a push left finds the pushed word on top, and popping it restores SP. -/
theorem State.top_of_pushed {s u : State} {w : Word} (h : s.sp.val ≠ 16) (hsp : u.sp = (s.push w).sp)
    (hst : u.stack = (s.push w).stack) : u.sp.val ≠ 0 ∧ u.top = w ∧ u.drop.sp = s.sp := by
  have hval : u.sp.val = s.sp.val + 1 := hsp ▸ s.push_sp_val w fun e => h (congrArg Fin.val e)
  have hne : u.sp.val ≠ 0 := by omega
  refine ⟨hne, Option.some.inj ?_, Fin.ext ?_⟩
  · have hslot := s.push_slot w s.sp.val (by have := s.sp.isLt; omega)
    rw [u.some_top, hval, Nat.add_sub_cancel, hst, hslot, if_pos rfl]
  · rw [u.drop_sp_val fun e => hne (congrArg Fin.val e), hval, Nat.add_sub_cancel]

/-- Settles O21: below a full stack CALL is a push and a jump, on a full one the fault. -/
theorem callPushesAndJumps : Obligations.CallPushesAndJumps := by
  unfold Obligations.CallPushesAndJumps
  intro nnn s
  constructor
  · intro h
    exact ⟨_, exec_call h nnn, toNat_target nnn, s.push_sp_val s.pc fun e => h (congrArg Fin.val e),
      fun k hk => s.push_slot s.pc k hk, (s.frame_push s.pc).setPc_of_stack _⟩
  · intro h
    exact ⟨_, exec_call_full h nnn, rfl, rfl, s.frame_raise _⟩

/-- Settles O22: with an address held RET is a pop and a jump to the top slot, on an empty stack the fault. -/
theorem retPopsIntoPc : Obligations.RetPopsIntoPc := by
  unfold Obligations.RetPopsIntoPc
  intro g s
  constructor
  · intro h
    exact ⟨_, exec_ret h g, s.some_top, s.drop_sp_val fun e => h (congrArg Fin.val e), rfl,
      s.frame_drop.setPc_of_stack _⟩
  · intro h
    exact ⟨_, exec_ret_empty h g, rfl, rfl, s.frame_raise _⟩

/-- Settles O23: the RET finds SP one higher than the CALL did, and in the slot below it the PC that the CALL pushed. -/
theorem callThenReturnRoundTrip : Obligations.CallThenReturnRoundTrip := by
  unfold Obligations.CallThenReturnRoundTrip
  intro nnn g s u h
  have ⟨hne, htop, hdrop⟩ := State.top_of_pushed (w := s.pc) (u := { u with
    sp := (s.push s.pc).sp, stack := (s.push s.pc).stack }) h rfl rfl
  exact ⟨_, _, exec_call h nnn, exec_ret hne g, htop, hdrop⟩

end Sys2Proof.Machine
end

section
/-!
SUPPORT. The instructions that write a result to Vx and then a flag to VF (`43_alu.md` R121, R128 to R133): what the two
writes leave, each flag in numbers; with them the proofs of `Obligations.AddRegistersSetsCarry`,
`Obligations.SubtractSetsNoBorrow`, `Obligations.ShiftsMoveOneBitOut` and `Obligations.VfAsOperandTable`.
-/

namespace Sys2Proof.Machine

/-! ### The two writes -/

/-- The flag is written last, so VF holds it whatever x is. -/
theorem State.setVWithFlag_getV_VF (s : State) (x : Nibble) (r : Byte) (c : Bool) :
    (s.setVWithFlag x r c).getV 0xF = flagByte c := by
  rw [State.setVWithFlag_eq]
  exact State.setV_getV_self ..

/-- A destination that is not VF keeps the result. -/
theorem State.setVWithFlag_getV {x : Nibble} (hx : x ≠ 0xF) (s : State) (r : Byte) (c : Bool) :
    (s.setVWithFlag x r c).getV x = r := by
  rw [State.setVWithFlag_eq, State.setV_getV, if_neg (show x ≠ regVF from hx), State.setV_getV_self]

/-- Result and flag change Vx and VF alone. -/
theorem State.frame_setVWithFlag (s : State) (x : Nibble) (r : Byte) (c : Bool) :
    Frame [x, 0xF] [] s (s.setVWithFlag x r c) := by
  rw [State.setVWithFlag_eq]
  exact ((s.frame_setV x r).mono (by simp) (List.Subset.refl _)).trans
    ((State.frame_setV _ regVF _).mono (by simp [regVF]) (List.Subset.refl _))

/-- What an instruction that answers `setVWithFlag x r c` does, told by a property of the result and one of the flag. -/
theorem exec_writes_flag {i : Instr} {s : State} {x : Nibble} {r : Byte} {c : Bool} (P Q : Byte → Prop)
    (he : exec i s = .next (s.setVWithFlag x r c)) (hr : P r) (hc : Q (flagByte c)) :
    ∃ t, exec i s = .next t ∧ (x ≠ 0xF → P (t.getV x)) ∧ Q (t.getV 0xF) ∧ Frame [x, 0xF] [] s t :=
  ⟨_, he, fun hx => (State.setVWithFlag_getV hx s r c).symm ▸ hr, (s.setVWithFlag_getV_VF x r c).symm ▸ hc,
    s.frame_setVWithFlag x r c⟩

/-- R128. -/
theorem exec_addReg (x y : Nibble) (s : State) : exec (.addReg x y) s =
    .next (s.setVWithFlag x (s.getV x + s.getV y) (carryOut (s.getV x) (s.getV y))) := rfl

/-- R129. -/
theorem exec_sub (x y : Nibble) (s : State) : exec (.sub x y) s =
    .next (s.setVWithFlag x (s.getV x - s.getV y) (noBorrow (s.getV x) (s.getV y))) := rfl

/-- R131. -/
theorem exec_subn (x y : Nibble) (s : State) : exec (.subn x y) s =
    .next (s.setVWithFlag x (s.getV y - s.getV x) (noBorrow (s.getV y) (s.getV x))) := rfl

/-- R130. -/
theorem exec_shr (x y : Nibble) (s : State) : exec (.shr x y) s =
    .next (s.setVWithFlag x (s.getV x >>> 1) (shiftedOutLow (s.getV x))) := rfl

/-- R132. -/
theorem exec_shl (x y : Nibble) (s : State) : exec (.shl x y) s =
    .next (s.setVWithFlag x (s.getV x <<< 1) (shiftedOutHigh (s.getV x))) := rfl

/-! ### Results and flags in numbers -/

theorem flagByte_decide (p : Prop) [Decidable p] : flagByte (decide p) = if p then 0x01 else 0x00 := by
  simp only [flagByte, decide_eq_true_eq]

theorem toNat_ite_flag (p : Prop) [Decidable p] : (if p then 0x01 else 0x00 : Byte).toNat = if p then 1 else 0 := by
  split <;> rfl

theorem toNat_flagByte (c : Bool) : (flagByte c).toNat = c.toNat := by cases c <;> rfl

/-- The difference modulo 256, without the order of the summands that the library's form has. -/
theorem toNat_sub_byte (a b : Byte) : (a - b).toNat = (256 + a.toNat - b.toNat) % 256 := by
  rw [BitVec.toNat_sub]
  have := b.isLt
  omega

theorem toNat_flagByte_shiftedOutLow (a : Byte) : (flagByte (shiftedOutLow a)).toNat = a.toNat % 2 := by
  rw [toNat_flagByte, shiftedOutLow, BitVec.getLsbD, Nat.toNat_testBit, pow_zero, Nat.div_one]

theorem toNat_flagByte_shiftedOutHigh (a : Byte) : (flagByte (shiftedOutHigh a)).toNat = a.toNat / 128 := by
  rw [toNat_flagByte, shiftedOutHigh, BitVec.getLsbD, Nat.toNat_testBit]
  have := a.isLt
  omega

/-- Settles O28: one write of result and flag; the sum of bytes is the sum of their values modulo 256. -/
theorem addRegistersSetsCarry : Obligations.AddRegistersSetsCarry := by
  unfold Obligations.AddRegistersSetsCarry
  intro x y s
  exact exec_writes_flag (·.toNat = ((s.getV x).toNat + (s.getV y).toNat) % 256)
    (· = if (s.getV x).toNat + (s.getV y).toNat > 255 then 0x01 else 0x00) (exec_addReg x y s)
    (BitVec.toNat_add _ _) (flagByte_decide _)

/-- Settles O29: both are one write of a difference and of the flag that compares the same two operands. -/
theorem subtractSetsNoBorrow : Obligations.SubtractSetsNoBorrow := by
  unfold Obligations.SubtractSetsNoBorrow
  intro x y s
  exact ⟨exec_writes_flag (·.toNat = (256 + (s.getV x).toNat - (s.getV y).toNat) % 256)
      (· = if (s.getV x).toNat ≥ (s.getV y).toNat then 0x01 else 0x00) (exec_sub x y s)
      (toNat_sub_byte _ _) (flagByte_decide _),
    exec_writes_flag (·.toNat = (256 + (s.getV y).toNat - (s.getV x).toNat) % 256)
      (· = if (s.getV y).toNat ≥ (s.getV x).toNat then 0x01 else 0x00) (exec_subn x y s)
      (toNat_sub_byte _ _) (flagByte_decide _)⟩

/-- Settles O30: both are one write of a shifted byte and of the bit that left it. -/
theorem shiftsMoveOneBitOut : Obligations.ShiftsMoveOneBitOut := by
  unfold Obligations.ShiftsMoveOneBitOut
  intro x y s
  have half : (s.getV x >>> 1).toNat = (s.getV x).toNat / 2 := by
    rw [BitVec.toNat_ushiftRight, Nat.shiftRight_one]
  have double : (s.getV x <<< 1).toNat = 2 * (s.getV x).toNat % 256 := by
    rw [BitVec.toNat_shiftLeft, Nat.shiftLeft_eq, Nat.mul_comm]
  exact ⟨exec_writes_flag (·.toNat = (s.getV x).toNat / 2) (·.toNat = (s.getV x).toNat % 2) (exec_shr x y s) half
      (toNat_flagByte_shiftedOutLow _),
    exec_writes_flag (·.toNat = 2 * (s.getV x).toNat % 256) (·.toNat = (s.getV x).toNat / 128) (exec_shl x y s) double
      (toNat_flagByte_shiftedOutHigh _)⟩

/-- Settles O31: the rows of R133 are the general laws of the five instructions at x = y = F, and at y = F alone, where
result and flag together say the exact sum or difference. -/
theorem vfAsOperandTable : Obligations.VfAsOperandTable := by
  unfold Obligations.VfAsOperandTable
  intro x s
  have hF := (s.getV 0xF).isLt
  have hX := (s.getV x).isLt
  refine ⟨?_, ?_, ?_, ?_, ?_, fun hx => ?_, fun hx => ?_, fun hx => ?_⟩
  case refine_1 =>
    obtain ⟨t, he, -, hf, -⟩ := addRegistersSetsCarry 0xF 0xF s
    refine ⟨t, he, ?_⟩
    rw [hf, toNat_ite_flag]
    split <;> omega
  case refine_2 =>
    obtain ⟨⟨t, he, -, hf, -⟩, -⟩ := subtractSetsNoBorrow 0xF 0xF s
    exact ⟨t, he, hf.trans (if_pos le_rfl)⟩
  case refine_3 =>
    obtain ⟨-, t, he, -, hf, -⟩ := subtractSetsNoBorrow 0xF 0xF s
    exact ⟨t, he, hf.trans (if_pos le_rfl)⟩
  case refine_4 =>
    obtain ⟨⟨t, he, -, hf, -⟩, -⟩ := shiftsMoveOneBitOut 0xF 0xF s
    exact ⟨t, he, hf⟩
  case refine_5 =>
    obtain ⟨-, t, he, -, hf, -⟩ := shiftsMoveOneBitOut 0xF 0xF s
    exact ⟨t, he, hf⟩
  case refine_6 =>
    obtain ⟨t, he, hr, hf, -⟩ := addRegistersSetsCarry x 0xF s
    refine ⟨t, he, ?_⟩
    rw [hr hx, hf, toNat_ite_flag]
    split <;> omega
  case refine_7 =>
    obtain ⟨⟨t, he, hr, hf, -⟩, -⟩ := subtractSetsNoBorrow x 0xF s
    refine ⟨t, he, ?_⟩
    rw [hr hx, hf, toNat_ite_flag]
    split <;> omega
  case refine_8 =>
    obtain ⟨-, t, he, hr, hf, -⟩ := subtractSetsNoBorrow x 0xF s
    refine ⟨t, he, ?_⟩
    rw [hr hx, hf, toNat_ite_flag]
    split <;> omega

end Sys2Proof.Machine
end

section
/-!
SUPPORT. The index register and the memory instructions (`44_index_memory.md` R140 to R146): the frames of their writes,
and what one more read finds; with them the proofs of `Obligations.IndexLoadsAndAdds`, `Obligations.LdFPointsAtGlyph`,
`Obligations.BcdStoresThreeDigits`, `Obligations.DumpStoresV0ToVx`, `Obligations.LoadFillsV0ToVx`,
`Obligations.DumpThenLoadRestoresRegisters` and `Obligations.StoredBytesAreFetchedNext`.
-/

namespace Sys2Proof.Machine

/-! ### Frames -/

/-- Writing I changes I alone. -/
theorem State.frame_setI (s : State) (w : Word) : Frame [] [.index] s (s.setI w) :=
  ⟨fun _ _ => rfl, fun h => absurd (List.mem_singleton_self _) h, fun _ => rfl, fun _ => ⟨rfl, rfl⟩, fun _ => rfl,
    fun _ => rfl, fun _ => rfl, fun _ _ => rfl, fun _ => rfl, fun _ => rfl, rfl, rfl⟩

/-- A free I changes I and the draw counter alone. -/
theorem State.frame_drawIndex (s : State) : Frame [] [.index, .draws] s s.drawIndex :=
  ⟨fun _ _ => rfl, fun h => absurd (List.mem_cons_self ..) h, fun _ => rfl, fun _ => ⟨rfl, rfl⟩, fun _ => rfl,
    fun _ => rfl, fun _ => rfl, fun _ _ => rfl, fun _ => rfl,
    fun h => absurd (List.mem_cons_of_mem _ (List.mem_singleton_self _)) h, rfl, rfl⟩

/-- A change of memory, however many bytes it writes. -/
theorem State.frame_mem (s : State) (m : Memory) : Frame [] [.mem] s { s with mem := m } :=
  ⟨fun _ _ => rfl, fun _ => rfl, fun _ => rfl, fun _ => ⟨rfl, rfl⟩, fun _ => rfl, fun _ => rfl, fun _ => rfl,
    fun h => absurd (List.mem_singleton_self _) h, fun _ => rfl, fun _ => rfl, rfl, rfl⟩

/-- One store changes memory alone. -/
theorem State.frame_writeMem (s : State) (a : Nat) (b : Byte) : Frame [] [.mem] s (s.writeMem a b) := s.frame_mem _

/-- The dump loop changes memory alone. -/
theorem State.frame_dumpRegs (s : State) (n : Nat) : Frame [] [.mem] s (s.dumpRegs n) := by
  rw [State.dumpRegs_eq]
  exact s.frame_mem _

theorem ofNat_toNat_nibble (r : Nibble) : BitVec.ofNat 4 r.toNat = r := by
  rw [BitVec.ofNat_toNat, BitVec.setWidth_eq]

/-- The registers the load loop writes are those of a number below its count. -/
theorem mem_map_ofNat_range {n : Nat} (hn : n ≤ 16) (r : Nibble) :
    r ∈ (List.range n).map (BitVec.ofNat 4) ↔ r.toNat < n := by
  rw [List.mem_map]
  constructor
  · rintro ⟨k, hk, rfl⟩
    have := List.mem_range.mp hk
    rw [BitVec.toNat_ofNat, Nat.mod_eq_of_lt (by omega)]
    exact this
  · exact fun h => ⟨r.toNat, List.mem_range.mpr h, ofNat_toNat_nibble r⟩

/-- The load loop changes the registers below its count alone. -/
theorem State.frame_loadRegs (s : State) {n : Nat} (hn : n ≤ 16) :
    Frame ((List.range n).map (BitVec.ofNat 4)) [] s (s.loadRegs n) := by
  have others (r : Nibble) (hr : r ∉ (List.range n).map (BitVec.ofNat 4)) : (s.loadRegs n).getV r = s.getV r :=
    (s.loadRegs_getV r n hn).trans (if_neg (mt (mem_map_ofNat_range hn r).mpr hr))
  rw [State.loadRegs_eq] at others ⊢
  exact ⟨others, fun _ => rfl, fun _ => rfl, fun _ => ⟨rfl, rfl⟩, fun _ => rfl, fun _ => rfl, fun _ => rfl,
    fun _ _ => rfl, fun _ => rfl, fun _ => rfl, rfl, rfl⟩

/-! ### The index register -/

/-- R140. -/
theorem exec_ldI (nnn : Addr12) (s : State) : exec (.ldI nnn) s = .next (s.setI (target nnn)) := rfl

/-- R141. -/
theorem exec_addI (x : Nibble) (s : State) : exec (.addI x) s = .next (s.setI (s.i + wide (s.getV x))) := rfl

/-- R142 for a digit. -/
theorem exec_ldF_digit {s : State} {x : Nibble} (h : (s.getV x).toNat ≤ 15) :
    exec (.ldF x) s = .next (s.setI (glyphAddr (s.getV x))) := if_pos h

/-- R142 for a larger value. -/
theorem exec_ldF_free {s : State} {x : Nibble} (h : ¬ (s.getV x).toNat ≤ 15) :
    exec (.ldF x) s = .next s.drawIndex := if_neg h

/-- R142: the glyph address of a digit does not wrap. -/
theorem toNat_glyphAddr {v : Byte} (h : v.toNat ≤ 15) : (glyphAddr v).toNat = 0x050 + 5 * v.toNat := by
  unfold glyphAddr Config.fontBase
  rw [BitVec.toNat_add, BitVec.toNat_mul, toNat_wide]
  show (0x050 + 5 * v.toNat % 65536) % 65536 = _
  omega

/-- Settles O32: both are one write of I; the sum of words is the sum of their values modulo 65536. -/
theorem indexLoadsAndAdds : Obligations.IndexLoadsAndAdds := by
  unfold Obligations.IndexLoadsAndAdds
  intro nnn x s
  refine ⟨⟨_, exec_ldI nnn s, toNat_target nnn, s.frame_setI _⟩, ⟨_, exec_addI x s, ?_, s.frame_setI _⟩⟩
  rw [State.setI_i, BitVec.toNat_add, toNat_wide]

/-- Settles O33: a write of I for a digit, a free I for a larger value. -/
theorem ldFPointsAtGlyph : Obligations.LdFPointsAtGlyph := by
  unfold Obligations.LdFPointsAtGlyph
  intro x s
  by_cases h : (s.getV x).toNat ≤ 15
  · exact ⟨_, exec_ldF_digit h, fun _ => ⟨toNat_glyphAddr h, rfl⟩,
      (s.frame_setI _).mono (List.Subset.refl _) (by simp)⟩
  · exact ⟨_, exec_ldF_free h, fun h' => absurd h' h, s.frame_drawIndex⟩

/-! ### Stores and loads at I -/

/-- R143. -/
theorem exec_ldB (x : Nibble) (s : State) : exec (.ldB x) s = .next
    (((s.writeMem (s.ea 0) (bcdHundreds (s.getV x))).writeMem (s.ea 1) (bcdTens (s.getV x))).writeMem
      (s.ea 2) (bcdOnes (s.getV x))) := rfl

/-- R144. -/
theorem exec_dump (x : Nibble) (s : State) : exec (.dump x) s = .next (s.dumpRegs (x.toNat + 1)) := rfl

/-- R145. -/
theorem exec_load (x : Nibble) (s : State) : exec (.load x) s = .next (s.loadRegs (x.toNat + 1)) := rfl

/-- Different small offsets reach different bytes, also across the end of memory (`20_memory.md` R57). -/
theorem State.maskAddr_ea_ne (s : State) {j k : Nat} (hj : j < 4096) (hk : k < 4096) (h : j ≠ k) :
    maskAddr (s.ea j) ≠ maskAddr (s.ea k) := fun e => h (maskAddr_add_inj hj hk e)

/-- R51: addresses that agree in their low 12 bits read the same byte. -/
theorem State.readMem_congr {a b : Nat} (h : a % 4096 = b % 4096) (s : State) : s.readMem a = s.readMem b := by
  rw [← s.readMem_mod a, ← s.readMem_mod b, h]

/-- Each digit fits a byte. -/
theorem toNat_bcd (v : Byte) : (bcdHundreds v).toNat = v.toNat / 100 ∧ (bcdTens v).toNat = v.toNat / 10 % 10 ∧
    (bcdOnes v).toNat = v.toNat % 10 := by
  have := v.isLt
  simp only [bcdHundreds, bcdTens, bcdOnes, BitVec.toNat_ofNat]
  omega

/-- Settles O34: three stores at different bytes, so each byte holds what its own store put there. -/
theorem bcdStoresThreeDigits : Obligations.BcdStoresThreeDigits := by
  unfold Obligations.BcdStoresThreeDigits
  intro x s
  obtain ⟨h100, h10, h1⟩ := toNat_bcd (s.getV x)
  have h01 := s.maskAddr_ea_ne (j := 0) (k := 1) (by decide) (by decide) (by decide)
  have h02 := s.maskAddr_ea_ne (j := 0) (k := 2) (by decide) (by decide) (by decide)
  have h12 := s.maskAddr_ea_ne (j := 1) (k := 2) (by decide) (by decide) (by decide)
  refine ⟨_, exec_ldB x s, ?_, ?_, ?_, fun a ha => ?_, fun _ => rfl,
    ((s.frame_writeMem _ _).trans (State.frame_writeMem _ _ _)).trans (State.frame_writeMem _ _ _)⟩
  · simpa [h01, h02] using h100
  · simpa [h12] using h10
  · simpa using h1
  · have h (k : Nat) (hk : k < 3) : maskAddr a ≠ maskAddr (s.ea k) := ha k hk
    simp [h]

/-- Settles O35: the dump loop with a count of x + 1. -/
theorem dumpStoresV0ToVx : Obligations.DumpStoresV0ToVx := by
  unfold Obligations.DumpStoresV0ToVx
  intro x s
  have hx : x.toNat + 1 ≤ 4096 := by have := x.isLt; omega
  refine ⟨_, exec_dump x s, fun k hk => ?_, fun a ha => ?_, fun _ => rfl, s.frame_dumpRegs _⟩
  · have stored := (s.dumpRegs_readMem (s.ea k.toNat) _ hx).1 k.toNat (Nat.lt_succ_of_le hk) rfl
    rwa [ofNat_toNat_nibble] at stored
  · exact (s.dumpRegs_readMem a _ hx).2 fun k hk => ha k (Nat.le_of_lt_succ hk)

/-- Settles O36: the load loop with a count of x + 1. -/
theorem loadFillsV0ToVx : Obligations.LoadFillsV0ToVx := by
  unfold Obligations.LoadFillsV0ToVx
  intro x s
  have hx : x.toNat + 1 ≤ 16 := x.isLt
  exact ⟨_, exec_load x s, fun k hk => (s.loadRegs_getV k _ hx).trans (if_pos (Nat.lt_succ_of_le hk)),
    s.frame_loadRegs hx⟩

/-- Settles O37: the load finds I where the dump had it, and there the bytes the dump stored. -/
theorem dumpThenLoadRestoresRegisters : Obligations.DumpThenLoadRestoresRegisters := by
  unfold Obligations.DumpThenLoadRestoresRegisters
  intro x s u
  obtain ⟨t, ht, stored, -, -, -, hi, -⟩ := dumpStoresV0ToVx x s
  obtain ⟨w, hw, loaded, others, -⟩ := loadFillsV0ToVx x { u with i := t.i, mem := t.mem }
  refine ⟨t, w, ht, hw, fun k hk => ?_, fun k hk => ?_⟩
  · calc w.getV k = t.readMem (t.i.toNat + k.toNat) := loaded k hk
      _ = t.readMem (s.ea k.toNat) := by rw [hi (by simp)]; rfl
      _ = s.getV k := stored k hk
  · exact others k (mt (mem_map_ofNat_range x.isLt k).mp (by omega))

/-- Settles O38: the rest of the Step leaves the stored bytes alone, and the fetch reads those of V[k] and V[k + 1]. -/
theorem storedBytesAreFetchedNext : Obligations.StoredBytesAreFetchedNext := by
  unfold Obligations.StoredBytesAreFetchedNext
  intro x k s t hf hi hs hk hpc
  obtain ⟨d, hd, stored, -, -, hframe⟩ := dumpStoresV0ToVx x s.advancePc
  obtain ⟨-, -, -, -, -, -, -, -, hfault, -⟩ := hframe
  have hd0 : d.fault = 0 := (hfault (by simp)).trans hf
  have hrun : exec (decode s.fetchWord) s.advancePc = .next d := (congrArg (exec · s.advancePc) hi).trans hd
  rw [step_running hf hrun, State.finish_running hd0] at hs
  obtain rfl := Host.Outcome.next.inj hs
  have hk1 : (k + 1).toNat = k.toNat + 1 := by
    have := x.isLt
    rw [BitVec.toNat_add]
    exact Nat.mod_eq_of_lt (by simp; omega)
  have high : d.readMem d.pc.toNat = s.getV k :=
    (State.readMem_congr hpc d).trans (stored k (by omega))
  have low : d.readMem (d.pc.toNat + 1) = s.getV (k + 1) := by
    refine (State.readMem_congr ?_ d).trans (stored (k + 1) (by omega))
    rw [hk1]
    show (d.pc.toNat + 1) % 4096 = (s.i.toNat + (k.toNat + 1)) % 4096
    have hpc' : d.pc.toNat % 4096 = (s.i.toNat + k.toNat) % 4096 := hpc
    omega
  exact congrArg₂ (fun hi lo : Byte => hi ++ lo) high low

end Sys2Proof.Machine
end

section
/-!
SUPPORT. The canonical form of memory determines the list (log 21), and the load port (`20_memory.md` R63) byte by byte;
the proofs of `Obligations.CanonicalMemoryIsDeterminedByItsBytes` and `Obligations.LoadPortPlacesTheImage`.
-/

namespace Sys2Proof.Machine

/-! ### The canonical form -/

/-- What the canonical form says of the first cell. -/
theorem Memory.wfFrom_cons {lo k : Nat} {b : Byte} {rest : Memory} :
    Memory.wfFrom lo ((k, b) :: rest) = true ↔
      lo ≤ k ∧ k < 4096 ∧ b ≠ resetByte k ∧ Memory.wfFrom (k + 1) rest = true := by
  simp only [Memory.wfFrom, Bool.and_eq_true, decide_eq_true_eq, and_assoc]

/-- A list that starts at `lo` lists no lower address. -/
theorem Memory.find_eq_none_of_lt {a : Nat} :
    ∀ {m : Memory} {lo : Nat}, Memory.wfFrom lo m = true → a < lo → Memory.find m a = none
  | [], _, _, _ => rfl
  | (k, b) :: rest, lo, h, ha => by
    obtain ⟨hlo, -, -, hrest⟩ := Memory.wfFrom_cons.mp h
    rw [Memory.find, if_neg (by omega), Memory.find_eq_none_of_lt hrest (by omega)]

/-- A listed cell is at an address below 4096 and differs from the reset byte there. -/
theorem Memory.of_find_eq_some {a : Nat} {b : Byte} :
    ∀ {m : Memory} {lo : Nat}, Memory.wfFrom lo m = true → Memory.find m a = some b → a < 4096 ∧ b ≠ resetByte a
  | (k, c) :: rest, lo, h, hfind => by
    obtain ⟨-, hk, hc, hrest⟩ := Memory.wfFrom_cons.mp h
    unfold Memory.find at hfind
    split at hfind
    · next hka =>
      obtain rfl := Option.some.inj hfind
      exact hka ▸ ⟨hk, hc⟩
    · exact Memory.of_find_eq_some hrest hfind

/-- Two canonical lists with the same cell, or none, at every address are the same list. -/
theorem Memory.eq_of_find_eq : ∀ {m m' : Memory} {lo : Nat}, Memory.wfFrom lo m = true → Memory.wfFrom lo m' = true →
    (∀ a, Memory.find m a = Memory.find m' a) → m = m'
  | [], [], _, _, _, _ => rfl
  | [], (k, b) :: rest, _, _, _, hfind => by simpa [Memory.find] using hfind k
  | (k, b) :: rest, [], _, _, _, hfind => by simpa [Memory.find] using hfind k
  | (k, b) :: rest, (k', b') :: rest', lo, h, h', hfind => by
    obtain ⟨-, hk, hb, hrest⟩ := Memory.wfFrom_cons.mp h
    obtain ⟨-, hk', hb', hrest'⟩ := Memory.wfFrom_cons.mp h'
    have hkk : k = k' := by
      rcases Nat.lt_trichotomy k k' with hlt | heq | hgt
      · have hnone := Memory.find_eq_none_of_lt (Memory.wfFrom_cons.mpr ⟨le_rfl, hk', hb', hrest'⟩) hlt
        simpa [Memory.find] using (hfind k).trans hnone
      · exact heq
      · have hnone := Memory.find_eq_none_of_lt (Memory.wfFrom_cons.mpr ⟨le_rfl, hk, hb, hrest⟩) hgt
        simpa [Memory.find] using (hfind k').symm.trans hnone
    subst hkk
    have hbb : b = b' := by simpa [Memory.find] using hfind k
    have hfind' (a : Nat) : Memory.find rest a = Memory.find rest' a := by
      by_cases hka : k = a
      · rw [Memory.find_eq_none_of_lt hrest (by omega), Memory.find_eq_none_of_lt hrest' (by omega)]
      · simpa [Memory.find, hka] using hfind a
    rw [hbb, Memory.eq_of_find_eq hrest hrest' hfind']

/-- In a canonical memory the byte read tells whether the address is listed, and with which byte. -/
theorem Memory.find_eq_some_iff {m : Memory} (h : m.wf = true) {a : Nat} {b : Byte} :
    Memory.find m a = some b ↔ a < 4096 ∧ b ≠ resetByte a ∧ Memory.read m a = b := by
  have hread (ha : a < 4096) : Memory.read m a = (Memory.find m a).getD (resetByte a) :=
    congrArg m.get (Nat.mod_eq_of_lt ha)
  constructor
  · intro hfind
    obtain ⟨ha, hb⟩ := Memory.of_find_eq_some h hfind
    exact ⟨ha, hb, by rw [hread ha, hfind, Option.getD_some]⟩
  · rintro ⟨ha, hb, hr⟩
    rw [hread ha] at hr
    cases hfind : Memory.find m a with
    | none => exact absurd (hr.symm.trans (by rw [hfind, Option.getD_none])) hb
    | some c => rw [← hr, hfind, Option.getD_some]

/-- Settles O39: the bytes decide which cells are listed, and the cells decide the list. -/
theorem canonicalMemoryIsDeterminedByItsBytes : Obligations.CanonicalMemoryIsDeterminedByItsBytes := by
  unfold Obligations.CanonicalMemoryIsDeterminedByItsBytes
  intro m m' h h' hread
  refine Memory.eq_of_find_eq h h' fun a => Option.ext fun b => ?_
  rw [Memory.find_eq_some_iff h, Memory.find_eq_some_iff h']
  exact and_congr_right fun ha => by rw [hread a ha]

/-! ### The load port -/

/-- Below 4096 the reduction of an address changes nothing. -/
theorem maskAddr_of_lt {a : Nat} (h : a < 4096) : maskAddr a = a := Nat.mod_eq_of_lt h

/-- Loading changes memory alone. -/
theorem Ports.frame_loadFrom : ∀ (image : List Byte) (s : State) (a : Nat), Frame [] [.mem] s (Ports.loadFrom s a image)
  | [], s, _ => Frame.refl _ _ s
  | b :: rest, s, a => (s.frame_writeMem a b).trans (Ports.frame_loadFrom rest (s.writeMem a b) (a + 1))

/-- A byte outside the image is as before. -/
theorem Ports.loadFrom_readMem_outside {x : Nat} (hx : x < 4096) : ∀ (image : List Byte) (s : State) (a : Nat),
    a + image.length ≤ 4096 → x < a ∨ a + image.length ≤ x → (Ports.loadFrom s a image).readMem x = s.readMem x
  | [], _, _, _, _ => rfl
  | b :: rest, s, a, hlen, hout => by
    simp only [List.length_cons] at hlen hout
    have hne : maskAddr x ≠ maskAddr a := by rw [maskAddr_of_lt hx, maskAddr_of_lt (by omega)]; omega
    rw [Ports.loadFrom, Ports.loadFrom_readMem_outside hx rest _ _ (by omega) (by omega), State.writeMem_readMem,
      if_neg hne]

/-- Byte k of the image is k bytes above its start. -/
theorem Ports.loadFrom_readMem_inside : ∀ (image : List Byte) (s : State) (a k : Nat), a + image.length ≤ 4096 →
    k < image.length → some ((Ports.loadFrom s a image).readMem (a + k)) = image[k]?
  | b :: rest, s, a, 0, hlen, _ => by
    simp only [List.length_cons] at hlen
    rw [Ports.loadFrom, Ports.loadFrom_readMem_outside (by omega) rest _ _ (by omega) (by omega)]
    simp
  | b :: rest, s, a, k + 1, hlen, hk => by
    simp only [List.length_cons] at hlen hk
    have ih := Ports.loadFrom_readMem_inside rest (s.writeMem a b) (a + 1) k (by omega) (by omega)
    rw [Ports.loadFrom, List.getElem?_cons_succ, ← ih, Nat.add_right_comm, Nat.add_assoc]

/-- Settles O40: the length check, and below it the bytes stored one after another from 0x200. -/
theorem loadPortPlacesTheImage : Obligations.LoadPortPlacesTheImage := by
  unfold Obligations.LoadPortPlacesTheImage
  intro image s
  constructor
  · exact fun h => if_neg (Nat.not_le_of_lt h)
  · intro h
    have hlen : 0x200 + image.length ≤ 4096 := by omega
    exact ⟨Ports.loadFrom s 0x200 image, if_pos h, fun k hk => Ports.loadFrom_readMem_inside image s 0x200 k hlen hk,
      fun a ha hout => Ports.loadFrom_readMem_outside ha image s 0x200 hlen hout, Ports.frame_loadFrom image s 0x200⟩

end Sys2Proof.Machine
end

section
/-!
SUPPORT. DRW (`46_display.md` R158, R159): the list of a sprite's pixels told by `SpriteCovers`, and one draw and
a second one over it; the proofs of `Obligations.DrwXorsTheClippedSprite` and `Obligations.DrawingTwiceRestoresTheDisplay`.
-/

namespace Sys2Proof.Machine

/-- Frame buffer and collision flag after the sprite of `rows` rows at I is drawn with its corner at (x0, y0). -/
def State.drawn (s : State) (x0 y0 rows : Nat) : FrameBuffer × Bool :=
  plotPixels s.fb false (s.spritePixels x0 y0 rows)

/-- R158: DRW draws at the wrapped anchor and then writes the flag. -/
theorem exec_drw (x y n : Nibble) (s : State) : exec (.drw x y n) s = .next
    ((s.setFb (s.drawn ((s.getV x).toNat % 64) ((s.getV y).toNat % 32) n.toNat).1).setV regVF
      (flagByte (s.drawn ((s.getV x).toNat % 64) ((s.getV y).toNat % 32) n.toNat).2)) := rfl

/-- DRW changes the frame buffer and VF alone. -/
theorem State.frame_draw (s : State) (f : FrameBuffer) (b : Byte) :
    Frame [regVF] [.fb] s ((s.setFb f).setV regVF b) :=
  ((s.frame_setFb f).mono (by simp) (List.Subset.refl _)).trans
    ((State.frame_setV _ regVF b).mono (List.Subset.refl _) (by simp))

/-- VF after DRW is the byte written last. -/
theorem State.getV_VF_draw (s : State) (f : FrameBuffer) (b : Byte) : ((s.setFb f).setV regVF b).getV 0xF = b :=
  State.setV_getV_self _ regVF b

/-! ### The pixels of a sprite -/

/-- On the display, the pixels of the list are those that the sprite covers. -/
theorem State.mem_spritePixels_iff_covers (s : State) (x0 y0 rows : Nat) {px py : Nat} (hx : px < 64) (hy : py < 32) :
    py * 64 + px ∈ s.spritePixels x0 y0 rows ↔ SpriteCovers s x0 y0 rows px py := by
  rw [State.mem_spritePixels]
  constructor
  · rintro ⟨row, hr, col, hc, hbit, hxd, -, heq⟩
    have hxd' : x0 + col < 64 := hxd
    have heq' : py * 64 + px = (y0 + row) * 64 + (x0 + col) := heq
    exact ⟨row, hr, col, hc, by omega, by omega, hbit⟩
  · rintro ⟨row, hr, col, hc, rfl, rfl, hbit⟩
    exact ⟨row, hr, col, hc, hbit, hx, hy, rfl⟩

/-- Some pixel of the list, told by its coordinates. -/
theorem State.exists_mem_spritePixels (s : State) (x0 y0 rows : Nat) (P : Nat → Prop) :
    (∃ k ∈ s.spritePixels x0 y0 rows, P k) ↔
      ∃ px < 64, ∃ py < 32, SpriteCovers s x0 y0 rows px py ∧ P (py * 64 + px) := by
  constructor
  · rintro ⟨k, hk, hP⟩
    obtain ⟨row, hr, col, hc, hbit, hx, hy, rfl⟩ := State.mem_spritePixels.mp hk
    exact ⟨x0 + col, hx, y0 + row, hy, ⟨row, hr, col, hc, rfl, rfl, hbit⟩, hP⟩
  · rintro ⟨px, hx, py, hy, hcov, hP⟩
    exact ⟨_, (s.mem_spritePixels_iff_covers x0 y0 rows hx hy).mpr hcov, hP⟩

/-! ### One draw -/

/-- A draw inverts the pixels of the sprite and leaves the others. -/
theorem State.drawn_pixel (s : State) (x0 y0 rows k : Nat) :
    FrameBuffer.pixel (s.drawn x0 y0 rows).1 k = if k ∈ s.spritePixels x0 y0 rows then
      FrameBuffer.pixel s.fb k ^^^ pixelOn else FrameBuffer.pixel s.fb k :=
  plotPixels_pixel k _ s.fb false (s.spritePixels_nodup x0 y0 rows) State.spritePixels_lt

/-- A draw reports a collision when a pixel of the sprite was on. -/
theorem State.drawn_collision (s : State) (x0 y0 rows : Nat) :
    (s.drawn x0 y0 rows).2 = true ↔ ∃ k ∈ s.spritePixels x0 y0 rows, FrameBuffer.pixel s.fb k ≠ 0 :=
  (plotPixels_hit _ s.fb false (s.spritePixels_nodup x0 y0 rows) State.spritePixels_lt).trans (by simp)

theorem flagByte_eq_one_iff {c : Bool} : flagByte c = 0x01 ↔ c = true := by cases c <;> decide

theorem flagByte_eq_zero_iff {c : Bool} : flagByte c = 0x00 ↔ c = false := by cases c <;> decide

/-- Settles O43: the toggled list is the clipped sprite, and the flag is a toggled pixel that was on. -/
theorem drwXorsTheClippedSprite : Obligations.DrwXorsTheClippedSprite := by
  unfold Obligations.DrwXorsTheClippedSprite
  intro x y n s
  have collides := (s.drawn_collision ((s.getV x).toNat % 64) ((s.getV y).toNat % 32) n.toNat).trans
    (s.exists_mem_spritePixels _ _ _ (FrameBuffer.pixel s.fb · ≠ 0))
  refine ⟨_, exec_drw x y n s, fun px hx py hy => ⟨fun h => ?_, fun h => ?_⟩, fun h => ?_, fun h => ?_,
    s.frame_draw _ _⟩
  · exact (s.drawn_pixel _ _ _ _).trans (if_pos ((s.mem_spritePixels_iff_covers _ _ _ hx hy).mpr h))
  · exact (s.drawn_pixel _ _ _ _).trans (if_neg (mt (s.mem_spritePixels_iff_covers _ _ _ hx hy).mp h))
  · exact (s.getV_VF_draw _ _).trans (flagByte_eq_one_iff.mpr (collides.mpr h))
  · exact (s.getV_VF_draw _ _).trans (flagByte_eq_zero_iff.mpr (Bool.eq_false_iff.mpr (mt collides.mp h)))

/-! ### The second draw -/

/-- A state with the frame buffer of a draw and the same sprite draws it away. -/
theorem State.drawn_drawn {s t : State} {x0 y0 rows : Nat} (hfb : t.fb = (s.drawn x0 y0 rows).1)
    (hsp : t.spritePixels x0 y0 rows = s.spritePixels x0 y0 rows) : (t.drawn x0 y0 rows).1 = s.fb := by
  refine FrameBuffer.ext_pixel fun k _ => ?_
  rw [State.drawn_pixel, hsp, hfb, State.drawn_pixel]
  split
  · rw [BitVec.xor_assoc, BitVec.xor_self, BitVec.xor_zero]
  · rfl

/-- Its collision flag reports a pixel of the sprite that was not on at first. -/
theorem State.drawn_drawn_collision {s t : State} {x0 y0 rows : Nat} (hfb : t.fb = (s.drawn x0 y0 rows).1)
    (hsp : t.spritePixels x0 y0 rows = s.spritePixels x0 y0 rows) :
    (t.drawn x0 y0 rows).2 = true ↔ ∃ k ∈ s.spritePixels x0 y0 rows, FrameBuffer.pixel s.fb k ≠ pixelOn := by
  rw [State.drawn_collision, hsp, hfb]
  refine exists_congr fun k => and_congr_right fun hk => not_congr ?_
  rw [State.drawn_pixel, if_pos hk]
  exact BitVec.xor_eq_zero_iff

/-- What the second draw needs of the first: its frame buffer, and the same bytes at the same I. -/
theorem draw_of_exec_drw {x y n : Nibble} {s t : State} (h : exec (.drw x y n) s = .next t) :
    t.fb = (s.drawn ((s.getV x).toNat % 64) ((s.getV y).toNat % 32) n.toNat).1 ∧
      ∀ x0 y0 rows, t.spritePixels x0 y0 rows = s.spritePixels x0 y0 rows := by
  obtain rfl := Host.Outcome.next.inj ((exec_drw x y n s).symm.trans h)
  exact ⟨rfl, fun _ _ _ => rfl⟩

/-- Settles O44: the second draw toggles the same list, whose pixels the first one inverted. -/
theorem drawingTwiceRestoresTheDisplay : Obligations.DrawingTwiceRestoresTheDisplay := by
  unfold Obligations.DrawingTwiceRestoresTheDisplay
  intro x y x' y' n s t ht hx hy
  obtain ⟨hfb, hsp⟩ := draw_of_exec_drw ht
  have hu := exec_drw x' y' n t
  rw [hx, hy] at hu
  refine ⟨_, hu, State.drawn_drawn hfb (hsp ..), ?_⟩
  rw [State.getV_VF_draw, flagByte_eq_one_iff, State.drawn_drawn_collision hfb (hsp ..)]
  exact s.exists_mem_spritePixels _ _ _ (FrameBuffer.pixel s.fb · ≠ pixelOn)

end Sys2Proof.Machine
end

section
/-!
SUPPORT. The key instructions (`47_keypad.md` R165 to R168): the proofs of `Obligations.KeySkipsTestOneKey` and
`Obligations.WaitForKeyTakesTheLowest`.
-/

namespace Sys2Proof.Machine

/-- R166. -/
theorem exec_skp (x ign : Nibble) (s : State) :
    exec (.skp x ign) s = .next (s.skipIf (s.keyDown (keyIndex (s.getV x)))) := rfl

/-- R167. -/
theorem exec_sknp (x ign : Nibble) (s : State) :
    exec (.sknp x ign) s = .next (s.skipIf (!s.keyDown (keyIndex (s.getV x)))) := rfl

/-- R168 with no key down. -/
theorem exec_ldVxK_none {s : State} (h : s.firstKey = none) (x : Nibble) : exec (.ldVxK x) s = .next s.rewindPc := by
  simp only [exec, execLdVxK, h]

/-- R168 with a key down. -/
theorem exec_ldVxK_some {s : State} {k : Nibble} (h : s.firstKey = some k) (x : Nibble) :
    exec (.ldVxK x) s = .next (s.setV x (k.setWidth 8)) := by
  simp only [exec, execLdVxK, h]

/-- The key of Vx is that of its value modulo 16 (D11). -/
theorem State.keyDown_keyIndex (s : State) (v : Byte) : s.keyDown (keyIndex v) = s.key.getLsbD (v.toNat % 16) :=
  congrArg s.key.getLsbD (BitVec.extractLsb'_toNat 0 4 v)

/-- Settles O45: both are one skip, on the bit of the key vector that Vx modulo 16 selects. -/
theorem keySkipsTestOneKey : Obligations.KeySkipsTestOneKey := by
  unfold Obligations.KeySkipsTestOneKey
  intro x ign s
  refine ⟨exec_skips_iff (exec_skp x ign s) ?_, exec_skips_iff (exec_sknp x ign s) ?_⟩
  · rw [State.keyDown_keyIndex]
  · rw [State.keyDown_keyIndex, Bool.not_eq_true']

/-- The scan told by bits of the key vector: every one 0. -/
theorem State.firstKey_of_all_up {s : State} (h : ∀ k < 16, s.key.getLsbD k = false) : s.firstKey = none :=
  State.firstKey_eq_none.mpr fun k => h k.toNat k.isLt

/-- The scan told by bits of the key vector: bit k the lowest that is 1. -/
theorem State.firstKey_of_lowest {s : State} {k : Nat} (hk : k < 16) (hdown : s.key.getLsbD k = true)
    (hlow : ∀ j < k, s.key.getLsbD j = false) : s.firstKey = some (BitVec.ofNat 4 k) := by
  have hval : (BitVec.ofNat 4 k).toNat = k := by rw [BitVec.toNat_ofNat, Nat.mod_eq_of_lt hk]
  exact State.firstKey_eq_some.mpr ⟨(congrArg s.key.getLsbD hval).trans hdown, fun j hj => hlow _ (hval ▸ hj)⟩

/-- A key number is written as a byte of the same value. -/
theorem toNat_key_byte {k : Nat} (hk : k < 16) : ((BitVec.ofNat 4 k).setWidth 8).toNat = k := by
  rw [BitVec.toNat_setWidth_of_le (by decide), BitVec.toNat_ofNat, Nat.mod_eq_of_lt hk]

/-- Settles O46: the scan finds no key and PC is rewound, or it finds the lowest key and Vx takes its number. -/
theorem waitForKeyTakesTheLowest : Obligations.WaitForKeyTakesTheLowest := by
  unfold Obligations.WaitForKeyTakesTheLowest
  intro x s
  cases hscan : s.firstKey with
  | none =>
    have rewound : (s.pc - 2).toNat = (s.pc.toNat + 65534) % 65536 := by
      rw [BitVec.toNat_sub, Nat.add_comm]
      rfl
    refine ⟨_, exec_ldVxK_none hscan x, fun _ => ⟨rewound, s.frame_setPc _⟩, fun k hk hdown hlow => ?_⟩
    cases hscan.symm.trans (State.firstKey_of_lowest hk hdown hlow)
  | some m =>
    refine ⟨_, exec_ldVxK_some hscan x, fun up => ?_, fun k hk hdown hlow => ⟨?_, s.frame_setV _ _⟩⟩
    · cases hscan.symm.trans (State.firstKey_of_all_up up)
    · obtain rfl := Option.some.inj (hscan.symm.trans (State.firstKey_of_lowest hk hdown hlow))
      rw [State.setV_getV_self, toNat_key_byte hk]

end Sys2Proof.Machine
end

section
/-!
SUPPORT. The footprint of every instruction, said once: which registers and which fields of the state its handler may
change. From it the proofs of `Obligations.OnlyCallAndRetReachTheStack`, `Obligations.WritersOfDisplayAndMemory`,
`Obligations.WritersOfIndexAndTimers`, `Obligations.WritersOfVf` and `Obligations.WaysPcChanges`.
-/

namespace Sys2Proof.Machine

/-! ### The footprint -/

/-- The registers that an instruction may change; a flag writer's include VF (`10_state.md` R21). -/
def writtenRegs : Instr → List Nibble
  | .ldImm x _ | .addImm x _ | .ldReg x _ | .orReg x _ | .andReg x _ | .xorReg x _ | .rnd x _ | .ldVxDt x
  | .ldVxK x => [x]
  | .addReg x _ | .sub x _ | .shr x _ | .subn x _ | .shl x _ => [x, 0xF]
  | .drw _ _ _ => [0xF]
  | .load x => (List.range (x.toNat + 1)).map (BitVec.ofNat 4)
  | _ => []

/-- The fields of the state, registers apart, that an instruction may change. -/
def writtenFields : Instr → List Field
  | .cls _ | .drw _ _ _ => [.fb]
  | .ret _ | .call _ => [.pc, .stack, .fault]
  | .jp _ | .jpV0 _ | .seImm _ _ | .sneImm _ _ | .seReg _ _ _ | .sneReg _ _ _ | .skp _ _ | .sknp _ _ | .ldVxK _ => [.pc]
  | .ldI _ | .addI _ => [.index]
  | .ldF _ => [.index, .draws]
  | .ldDtVx _ => [.dt]
  | .ldStVx _ => [.st]
  | .ldB _ | .dump _ => [.mem]
  | _ => []

/-- A handler that takes the fault stays in the footprint of CALL and RET. -/
theorem State.frame_raise_stack (s : State) (f : Fault) : Frame [] [.pc, .stack, .fault] s (s.raise f) :=
  (s.frame_raise f).mono (List.Subset.refl _) (by simp)

/-- So does one that changes the stack and jumps. -/
theorem Frame.setPc_of_stack_fault {s t : State} (h : Frame [] [.stack] s t) (w : Word) :
    Frame [] [.pc, .stack, .fault] s (t.setPc w) :=
  (h.setPc_of_stack w).mono (List.Subset.refl _) (by simp)

/-- Every handler stays in its instruction's footprint, and one without memory there leaves memory's data alone. -/
theorem exec_footprint {i : Instr} {s t : State} (h : exec i s = .next t) :
    Frame (writtenRegs i) (writtenFields i) s t ∧ (Field.mem ∉ writtenFields i → t.mem = s.mem) := by
  have same {u : State} (hu : exec i s = .next u) : u = t := Host.Outcome.next.inj (hu.symm.trans h)
  cases i
  case cls g => obtain rfl := same rfl; exact ⟨s.frame_setFb _, fun _ => rfl⟩
  case drw x y n => obtain rfl := same rfl; exact ⟨s.frame_draw _ _, fun _ => rfl⟩
  case nop op => obtain rfl := same rfl; exact ⟨Frame.refl _ _ s, fun _ => rfl⟩
  case jp nnn => obtain rfl := same rfl; exact ⟨s.frame_setPc _, fun _ => rfl⟩
  case jpV0 nnn => obtain rfl := same rfl; exact ⟨s.frame_setPc _, fun _ => rfl⟩
  case call nnn =>
    by_cases hsp : s.sp.val = 16
    · obtain rfl := same (exec_call_full hsp nnn)
      exact ⟨s.frame_raise_stack _, fun _ => rfl⟩
    · obtain rfl := same (exec_call hsp nnn)
      exact ⟨(s.frame_push _).setPc_of_stack_fault _, fun _ => rfl⟩
  case ret g =>
    by_cases hsp : s.sp.val = 0
    · obtain rfl := same (exec_ret_empty hsp g)
      exact ⟨s.frame_raise_stack _, fun _ => rfl⟩
    · obtain rfl := same (exec_ret hsp g)
      exact ⟨s.frame_drop.setPc_of_stack_fault _, fun _ => rfl⟩
  case seImm | sneImm | seReg | sneReg | skp | sknp =>
    obtain rfl := same rfl
    exact ⟨s.frame_skipIf _, fun _ => by rw [State.skipIf_eq, State.setPc_mem]⟩
  case ldImm | addImm | ldReg | orReg | andReg | xorReg | rnd | ldVxDt =>
    obtain rfl := same rfl
    exact ⟨s.frame_setV _ _, fun _ => rfl⟩
  case addReg | sub | shr | subn | shl =>
    obtain rfl := same rfl
    exact ⟨s.frame_setVWithFlag _ _ _, fun _ => rfl⟩
  case ldVxK x =>
    cases hk : s.firstKey with
    | none =>
      obtain rfl := same (exec_ldVxK_none hk x)
      exact ⟨(s.frame_setPc _).mono (by simp) (List.Subset.refl _), fun _ => rfl⟩
    | some k =>
      obtain rfl := same (exec_ldVxK_some hk x)
      exact ⟨(s.frame_setV _ _).mono (List.Subset.refl _) (by simp), fun _ => rfl⟩
  case ldI nnn => obtain rfl := same rfl; exact ⟨s.frame_setI _, fun _ => rfl⟩
  case addI x => obtain rfl := same rfl; exact ⟨s.frame_setI _, fun _ => rfl⟩
  case ldF x =>
    by_cases hx : (s.getV x).toNat ≤ 15
    · obtain rfl := same (exec_ldF_digit hx)
      exact ⟨(s.frame_setI _).mono (List.Subset.refl _) (by simp [writtenFields]), fun _ => rfl⟩
    · obtain rfl := same (exec_ldF_free hx)
      exact ⟨s.frame_drawIndex, fun _ => rfl⟩
  case ldDtVx x => obtain rfl := same rfl; exact ⟨s.frame_setDt _, fun _ => rfl⟩
  case ldStVx x => obtain rfl := same rfl; exact ⟨s.frame_setSt _, fun _ => rfl⟩
  case ldB x => obtain rfl := same rfl; exact ⟨s.frame_mem _, fun hm => absurd (List.mem_singleton_self _) hm⟩
  case dump x => obtain rfl := same rfl; exact ⟨s.frame_dumpRegs _, fun hm => absurd (List.mem_singleton_self _) hm⟩
  case load x =>
    obtain rfl := same rfl
    exact ⟨s.frame_loadRegs x.isLt, fun _ => by rw [State.loadRegs_eq]⟩

/-- The frame alone. -/
theorem exec_frame {i : Instr} {s t : State} (h : exec i s = .next t) : Frame (writtenRegs i) (writtenFields i) s t :=
  (exec_footprint h).1

/-! ### Who has a field in its footprint -/

theorem stack_or_fault_written {i : Instr} (h : .stack ∈ writtenFields i ∨ .fault ∈ writtenFields i) :
    (∃ nnn, i = .call nnn) ∨ ∃ g, i = .ret g := by
  cases i <;> simp [writtenFields] at h ⊢

theorem fb_written {i : Instr} (h : .fb ∈ writtenFields i) : (∃ g, i = .cls g) ∨ ∃ x y n, i = .drw x y n := by
  cases i <;> simp [writtenFields] at h ⊢

theorem mem_written {i : Instr} (h : .mem ∈ writtenFields i) : (∃ x, i = .ldB x) ∨ ∃ x, i = .dump x := by
  cases i <;> simp [writtenFields] at h ⊢

theorem index_written {i : Instr} (h : .index ∈ writtenFields i) :
    (∃ nnn, i = .ldI nnn) ∨ (∃ x, i = .addI x) ∨ ∃ x, i = .ldF x := by
  cases i <;> simp [writtenFields] at h ⊢

theorem dt_written {i : Instr} (h : .dt ∈ writtenFields i) : ∃ x, i = .ldDtVx x := by
  cases i <;> simp [writtenFields] at h ⊢

theorem st_written {i : Instr} (h : .st ∈ writtenFields i) : ∃ x, i = .ldStVx x := by
  cases i <;> simp [writtenFields] at h ⊢

/-- VF is in the footprint of the flag writers, and of the ordinary writers with x = F. -/
theorem VF_written {i : Instr} (h : 0xF ∈ writtenRegs i)
    (hflag : ∀ x y, i ≠ .addReg x y ∧ i ≠ .sub x y ∧ i ≠ .shr x y ∧ i ≠ .subn x y ∧ i ≠ .shl x y)
    (hdrw : ∀ x y n, i ≠ .drw x y n) :
    ∃ y kk, i ∈ [.ldImm 0xF kk, .addImm 0xF kk, .rnd 0xF kk, .ldReg 0xF y, .orReg 0xF y, .andReg 0xF y, .xorReg 0xF y,
      .ldVxDt 0xF, .ldVxK 0xF, .load 0xF] := by
  cases i
  case ldImm | addImm | rnd | ldReg | orReg | andReg | xorReg | ldVxDt | ldVxK =>
    obtain rfl := List.mem_singleton.mp h
    simp
  case load x =>
    have hx : 15 < x.toNat + 1 := (mem_map_ofNat_range x.isLt 0xF).mp h
    obtain rfl : x = 0xF := BitVec.eq_of_toNat_eq (Nat.le_antisymm (Nat.le_of_lt_succ x.isLt) (Nat.le_of_lt_succ hx))
    simp
  case addReg x y | sub x y | shr x y | subn x y | shl x y => simp at hflag
  case drw x y n => exact absurd rfl (hdrw x y n)
  all_goals exact absurd h List.not_mem_nil

/-- Settles O48: CALL and RET alone have the stack or the latch in their footprint. -/
theorem onlyCallAndRetReachTheStack : Obligations.OnlyCallAndRetReachTheStack := by
  unfold Obligations.OnlyCallAndRetReachTheStack
  intro i s t h hcall hret
  obtain ⟨-, -, -, hstack, -, -, -, -, hfault, -⟩ := exec_frame h
  have outside : ¬ (.stack ∈ writtenFields i ∨ .fault ∈ writtenFields i) := fun hw =>
    (stack_or_fault_written hw).elim (fun ⟨nnn, e⟩ => hcall nnn e) fun ⟨g, e⟩ => hret g e
  obtain ⟨hsp, hslots⟩ := hstack fun hw => outside (.inl hw)
  exact ⟨hsp, hslots, hfault fun hw => outside (.inr hw)⟩

/-- Settles O49: the frame buffer is in the footprint of CLS and DRW alone, memory in that of LD B and LD [I]. -/
theorem writersOfDisplayAndMemory : Obligations.WritersOfDisplayAndMemory := by
  unfold Obligations.WritersOfDisplayAndMemory
  intro i s t h
  obtain ⟨-, -, -, -, -, -, hfb, hmem, -⟩ := exec_frame h
  refine ⟨fun hcls hdrw => hfb fun hw => ?_, fun hldB hdump => hmem fun hw => ?_⟩
  · exact (fb_written hw).elim (fun ⟨g, e⟩ => hcls g e) fun ⟨x, y, n, e⟩ => hdrw x y n e
  · exact (mem_written hw).elim (fun ⟨x, e⟩ => hldB x e) fun ⟨x, e⟩ => hdump x e

/-- Settles O50: I is in the footprint of its three writers alone, and each timer in that of its one. -/
theorem writersOfIndexAndTimers : Obligations.WritersOfIndexAndTimers := by
  unfold Obligations.WritersOfIndexAndTimers
  intro i s t h
  obtain ⟨-, hi, -, -, hdt, hst, -⟩ := exec_frame h
  refine ⟨fun hldI haddI hldF => hi fun hw => ?_, fun hld => hdt fun hw => ?_, fun hld => hst fun hw => ?_⟩
  · obtain ⟨nnn, e⟩ | ⟨x, e⟩ | ⟨x, e⟩ := index_written hw
    exacts [hldI nnn e, haddI x e, hldF x e]
  · exact (dt_written hw).elim hld
  · exact (st_written hw).elim hld

theorem flagByte_zero_or_one (c : Bool) : flagByte c = 0x00 ∨ flagByte c = 0x01 := by cases c <;> decide

/-- Settles O51: the flag writers write the flag last, and any other instruction with VF in its footprint has x = F. -/
theorem writersOfVf : Obligations.WritersOfVf := by
  unfold Obligations.WritersOfVf
  intro i s t h
  constructor
  · have flag {u : State} {x : Nibble} {r : Byte} {c : Bool} (hi : exec i s = .next (u.setVWithFlag x r c)) :
        t.getV 0xF = 0x00 ∨ t.getV 0xF = 0x01 := by
      obtain rfl := Host.Outcome.next.inj (hi.symm.trans h)
      rw [State.setVWithFlag_getV_VF]
      exact flagByte_zero_or_one c
    rintro (⟨x, y, rfl | rfl | rfl | rfl | rfl⟩ | ⟨x, y, n, rfl⟩)
    · exact flag (exec_addReg x y s)
    · exact flag (exec_sub x y s)
    · exact flag (exec_shr x y s)
    · exact flag (exec_subn x y s)
    · exact flag (exec_shl x y s)
    · obtain rfl := Host.Outcome.next.inj ((exec_drw x y n s).symm.trans h)
      rw [State.getV_VF_draw]
      exact flagByte_zero_or_one _
  · intro hflag hdrw
    by_cases hVF : 0xF ∈ writtenRegs i
    · exact .inr (VF_written hVF hflag hdrw)
    · exact .inl ((exec_frame h).1 0xF hVF)

theorem State.skipIf_pc (s : State) (c : Bool) : (s.skipIf c).pc = s.pc ∨ (s.skipIf c).pc = s.pc + 2 := by
  cases c
  case false => exact .inl rfl
  case true => exact .inr rfl

/-- Settles O52: PC is outside the footprint of all but the control transfers, the skips, which add 2, and the wait. -/
theorem waysPcChanges : Obligations.WaysPcChanges := by
  unfold Obligations.WaysPcChanges
  intro i s t h
  have same {u : State} (hu : exec i s = .next u) : u = t := Host.Outcome.next.inj (hu.symm.trans h)
  obtain ⟨-, -, hpc, -⟩ := exec_frame h
  cases i
  case jp nnn => exact .inr (.inl ⟨nnn, .inl rfl⟩)
  case call nnn => exact .inr (.inl ⟨nnn, .inr (.inl rfl)⟩)
  case jpV0 nnn => exact .inr (.inl ⟨nnn, .inr (.inr rfl)⟩)
  case ret g => exact .inr (.inr (.inl ⟨g, rfl⟩))
  case seImm | sneImm | seReg | sneReg | skp | sknp =>
    obtain rfl := same rfl
    refine (s.skipIf_pc _).imp id fun htaken => .inr (.inr (.inl ⟨htaken, ?_⟩))
    simp
  case ldVxK x =>
    cases hk : s.firstKey with
    | none =>
      obtain rfl := same (exec_ldVxK_none hk x)
      exact .inr (.inr (.inr (.inr ⟨rfl, x, rfl⟩)))
    | some k =>
      obtain rfl := same (exec_ldVxK_some hk x)
      exact .inl rfl
  all_goals exact .inl (hpc (by simp [writtenFields]))

end Sys2Proof.Machine
end

section
/-!
SUPPORT. What one Step can do, said once (`40_step.md` R90, R94; `60_exceptions.md` R186 to R188); from it the proofs of
the statements about whole Steps and about reset: `Obligations.StepKeepsInvariant`, `Obligations.StepAlwaysAnswersNext`,
`Obligations.FaultedMachineIsFrozen`, `Obligations.StepRunsDecodedInstruction`, `Obligations.StackViolationIsPrecise`,
`Obligations.FaultOutcomeNamesTheCause`, `Obligations.TimersTickOncePerStep`, `Obligations.ParkedProgramStaysParked`,
`Obligations.ResetMeetsInvariant` and `Obligations.ResetValues`.
-/

namespace Sys2Proof.Machine

/-! ### The cases of a Step -/

/-- R94. -/
theorem step_frozen {s : State} (h : s.fault ≠ 0) : step s = .next s := if_pos h

/-- A Step is frozen, or it is the handler of the next instruction and the end of the Step. -/
theorem step_cases {s t : State} (h : step s = .next t) :
    (s.fault ≠ 0 ∧ t = s) ∨ (s.fault = 0 ∧ ∃ u, exec s.nextInstr s.advancePc = .next u ∧ t = u.finish) := by
  by_cases hf : s.fault = 0
  · obtain ⟨u, hu⟩ := exec_next s.nextInstr s.advancePc
    exact .inr ⟨hf, u, hu, Host.Outcome.next.inj (h.symm.trans (step_running hf hu))⟩
  · exact .inl ⟨hf, Host.Outcome.next.inj (h.symm.trans (step_frozen hf))⟩

/-- A handler takes the fault exactly for RET on an empty stack and CALL on a full one; otherwise it keeps the latch. -/
theorem exec_fault_cases {i : Instr} {s t : State} (h : exec i s = .next t) :
    (((∃ g, i = .ret g) ∧ s.sp.val = 0) ∧ t = s.raise .stackUnderflow) ∨
    (((∃ nnn, i = .call nnn) ∧ s.sp.val = 16) ∧ t = s.raise .stackOverflow) ∨
    (¬ ((∃ g, i = .ret g) ∧ s.sp.val = 0) ∧ ¬ ((∃ nnn, i = .call nnn) ∧ s.sp.val = 16) ∧ t.fault = s.fault) := by
  have same {u : State} (hu : exec i s = .next u) : t = u := Host.Outcome.next.inj (h.symm.trans hu)
  by_cases hret : ∃ g, i = .ret g
  · obtain ⟨g, rfl⟩ := hret
    by_cases hsp : s.sp.val = 0
    · exact .inl ⟨⟨⟨g, rfl⟩, hsp⟩, same (exec_ret_empty hsp g)⟩
    · exact .inr (.inr ⟨fun hv => hsp hv.2, by simp, by rw [same (exec_ret hsp g)]; rfl⟩)
  by_cases hcall : ∃ nnn, i = .call nnn
  · obtain ⟨nnn, rfl⟩ := hcall
    by_cases hsp : s.sp.val = 16
    · exact .inr (.inl ⟨⟨⟨nnn, rfl⟩, hsp⟩, same (exec_call_full hsp nnn)⟩)
    · exact .inr (.inr ⟨by simp, fun hv => hsp hv.2, by rw [same (exec_call hsp nnn)]; rfl⟩)
  obtain ⟨-, -, hkept⟩ := onlyCallAndRetReachTheStack i s t h (fun nnn e => hcall ⟨nnn, e⟩) fun g e => hret ⟨g, e⟩
  exact .inr (.inr ⟨fun hv => hret hv.1, fun hv => hcall hv.1, hkept⟩)

/-- R188: taking the fault undoes the PC advance of the fetch, so nothing but the latch differs from before the Step. -/
theorem State.raise_advancePc (s : State) (f : Fault) : s.advancePc.raise f = { s with fault := f.code } := by
  have hpc : s.pc + 2 - 2 = s.pc := BitVec.add_sub_cancel s.pc 2
  show { s with pc := s.pc + 2 - 2, fault := f.code } = _
  rw [hpc]

/-- The end of a Step leaves the latch alone. -/
theorem State.finish_fault (t : State) : t.finish.fault = t.fault := by
  unfold State.finish; split <;> rfl

/-- The three ways a Step of a running machine ends, as to the latch. -/
theorem step_fault_cases {s t : State} (hf : s.fault = 0) (h : step s = .next t) :
    (((∃ g, s.nextInstr = .ret g) ∧ s.sp.val = 0) ∧ t = { s with fault := 1 }) ∨
    (((∃ nnn, s.nextInstr = .call nnn) ∧ s.sp.val = 16) ∧ t = { s with fault := 2 }) ∨
    (¬ ((∃ g, s.nextInstr = .ret g) ∧ s.sp.val = 0) ∧ ¬ ((∃ nnn, s.nextInstr = .call nnn) ∧ s.sp.val = 16) ∧
      t.fault = 0) := by
  obtain ⟨hne, -⟩ | ⟨-, u, hu, rfl⟩ := step_cases h
  · exact absurd hf hne
  obtain ⟨hv, rfl⟩ | ⟨hv, rfl⟩ | ⟨hret, hcall, hkept⟩ := exec_fault_cases hu
  · exact .inl ⟨hv, by rw [State.finish_faulted (by simp [Fault.code]), State.raise_advancePc]; rfl⟩
  · exact .inr (.inl ⟨hv, by rw [State.finish_faulted (by simp [Fault.code]), State.raise_advancePc]; rfl⟩)
  · exact .inr (.inr ⟨hret, hcall, u.finish_fault.trans (hkept.trans hf)⟩)

/-! ### Answers and faults -/

/-- Settles O10: a frozen machine answers itself, a running one what its handler answers. -/
theorem stepAlwaysAnswersNext : Obligations.StepAlwaysAnswersNext := by
  unfold Obligations.StepAlwaysAnswersNext
  intro s
  by_cases hf : s.fault = 0
  · obtain ⟨u, hu⟩ := exec_next s.nextInstr s.advancePc
    exact ⟨u.finish, step_running hf hu⟩
  · exact ⟨s, step_frozen hf⟩

/-- Settles O11: R94 is the first test of a Step. -/
theorem faultedMachineIsFrozen : Obligations.FaultedMachineIsFrozen := by
  unfold Obligations.FaultedMachineIsFrozen
  exact fun _ => step_frozen

/-- Settles O9: the handler's answer, and the tick after it unless it raised a fault. -/
theorem stepRunsDecodedInstruction : Obligations.StepRunsDecodedInstruction := by
  unfold Obligations.StepRunsDecodedInstruction
  intro s hf
  obtain ⟨t, ht⟩ := exec_next s.nextInstr s.advancePc
  have hstep : step s = .next t.finish := step_running hf ht
  refine ⟨t, ht, fun hne => ?_, fun h0 => ⟨t.tick.sampleInputs, ?_, toNat_tickTimer t.dt, toNat_tickTimer t.st, rfl⟩⟩
  · rw [hstep, State.finish_faulted hne]
  · rw [hstep, State.finish_running h0]

/-- Settles O12: the three cases of `step_fault_cases`; SP tells the two violations apart. -/
theorem stackViolationIsPrecise : Obligations.StackViolationIsPrecise := by
  unfold Obligations.StackViolationIsPrecise
  intro s t hf h
  obtain ⟨⟨hret, hsp⟩, rfl⟩ | ⟨⟨hcall, hsp⟩, rfl⟩ | ⟨hret, hcall, h0⟩ := step_fault_cases hf h
  · exact ⟨fun _ => rfl, fun ⟨_, hsp'⟩ => absurd (hsp.symm.trans hsp') (by decide), fun hn => absurd ⟨hret, hsp⟩ hn⟩
  · exact ⟨fun ⟨_, hsp'⟩ => absurd (hsp'.symm.trans hsp) (by decide), fun _ => rfl, fun _ hn => absurd ⟨hcall, hsp⟩ hn⟩
  · exact ⟨fun hv => absurd hv hret, fun hv => absurd hv hcall, fun _ _ => h0⟩

/-- The fault-outcome reading of a Step that leaves the code of a cause in the latch. -/
theorem stepOrFault_of_code {s t : State} {f : Fault} (h : step s = .next t) (hf : t.fault = f.code) :
    stepOrFault s = .fault f := by
  have hcause : faultCause f.code = some f := by cases f <;> rfl
  simp only [stepOrFault, h, hf, hcause]

/-- The fault-outcome reading of a Step that leaves the latch at 0. -/
theorem stepOrFault_of_running {s t : State} (h : step s = .next t) (h0 : t.fault = 0) : stepOrFault s = .next t := by
  have hcause : faultCause 0 = none := rfl
  simp only [stepOrFault, h, h0, hcause]

/-- Settles O13: in each of the three cases the latch names the cause, or names none; SP tells the two causes apart. -/
theorem faultOutcomeNamesTheCause : Obligations.FaultOutcomeNamesTheCause := by
  unfold Obligations.FaultOutcomeNamesTheCause
  intro s hf
  obtain ⟨t, ht⟩ := stepAlwaysAnswersNext s
  have same {t' : State} (h : step s = .next t' ∧ t'.fault = 0) : t.fault = 0 :=
    Host.Outcome.next.inj (ht.symm.trans h.1) ▸ h.2
  obtain ⟨hv, rfl⟩ | ⟨hv, rfl⟩ | ⟨hret, hcall, h0⟩ := step_fault_cases hf ht
  · rw [stepOrFault_of_code (f := .stackUnderflow) ht rfl]
    exact ⟨iff_of_true rfl hv, iff_of_false (by simp) fun hv' => absurd (hv.2.symm.trans hv'.2) (by decide),
      fun _ => iff_of_false (by simp) fun h => absurd (same h) (by simp)⟩
  · rw [stepOrFault_of_code (f := .stackOverflow) ht rfl]
    exact ⟨iff_of_false (by simp) fun hv' => absurd (hv.2.symm.trans hv'.2) (by decide), iff_of_true rfl hv,
      fun _ => iff_of_false (by simp) fun h => absurd (same h) (by simp)⟩
  · rw [stepOrFault_of_running ht h0]
    refine ⟨iff_of_false (by simp) hret, iff_of_false (by simp) hcall, fun t' => ⟨fun h => ?_, fun h => ?_⟩⟩
    · exact Host.Outcome.next.inj h ▸ ⟨ht, h0⟩
    · exact ht.symm.trans h.1

/-! ### The invariant -/

/-- The end of a Step leaves memory alone. -/
theorem State.finish_mem (t : State) : t.finish.mem = t.mem := by
  unfold State.finish; split <;> rfl

/-- The end of a Step leaves the frame buffer alone. -/
theorem State.finish_fb (t : State) : t.finish.fb = t.fb := by
  unfold State.finish; split <;> rfl

/-- Every handler keeps the canonical form of memory. -/
theorem exec_keeps_wf {i : Instr} {s t : State} (h : exec i s = .next t) (hwf : s.mem.wf = true) : t.mem.wf = true := by
  by_cases hw : Field.mem ∈ writtenFields i
  · obtain ⟨x, rfl⟩ | ⟨x, rfl⟩ := mem_written hw
    · obtain rfl := Host.Outcome.next.inj ((exec_ldB x s).symm.trans h)
      exact Memory.write_wf (Memory.write_wf (Memory.write_wf hwf _ _) _ _) _ _
    · obtain rfl := Host.Outcome.next.inj ((exec_dump x s).symm.trans h)
      exact State.dumpRegs_wf hwf _
  · rw [(exec_footprint h).2 hw]
    exact hwf

/-- A pixel word is one of the two that `10_state.md` R26 allows. -/
def FrameBuffer.TwoValued (f : FrameBuffer) : Prop := ∀ k, FrameBuffer.pixel f k = 0 ∨ FrameBuffer.pixel f k = pixelOn

/-- Drawing inverts pixel words, which turns each of the two into the other. -/
theorem State.drawn_twoValued {s : State} (h : s.fb.TwoValued) (x0 y0 rows : Nat) :
    (s.drawn x0 y0 rows).1.TwoValued := by
  intro k
  rw [State.drawn_pixel]
  split
  · exact (h k).symm.imp (fun hon => by rw [hon]; rfl) fun hoff => by rw [hoff]; rfl
  · exact h k

/-- Every handler keeps the pixel words two-valued. -/
theorem exec_keeps_twoValued {i : Instr} {s t : State} (h : exec i s = .next t) (hfb : s.fb.TwoValued) :
    t.fb.TwoValued := by
  by_cases hw : Field.fb ∈ writtenFields i
  · obtain ⟨g, rfl⟩ | ⟨x, y, n, rfl⟩ := fb_written hw
    · obtain rfl := Host.Outcome.next.inj ((exec_cls g s).symm.trans h)
      exact fun k => .inl (FrameBuffer.blank_pixel k)
    · rw [(draw_of_exec_drw h).1]
      exact State.drawn_twoValued hfb _ _ _
  · obtain ⟨-, -, -, -, -, -, hkept, -⟩ := exec_frame h
    rw [hkept hw]
    exact hfb

/-- Settles O14: memory and pixels by the handlers, the clauses on FAULT by the three ways a Step ends. -/
theorem stepKeepsInvariant : Obligations.StepKeepsInvariant := by
  unfold Obligations.StepKeepsInvariant
  rintro s t ⟨hwf, hfb, hinv⟩ h
  obtain ⟨-, rfl⟩ | ⟨hf, u, hu, rfl⟩ := step_cases h
  · exact ⟨hwf, hfb, hinv⟩
  refine ⟨?_, ?_, ?_⟩
  · rw [State.finish_mem]
    exact exec_keeps_wf hu hwf
  · rw [State.finish_fb]
    exact exec_keeps_twoValued hu hfb
  · obtain ⟨⟨-, hsp⟩, ht⟩ | ⟨⟨-, hsp⟩, ht⟩ | ⟨-, -, h0⟩ := step_fault_cases hf h
    · rw [ht]
      exact ⟨by simp, fun _ => hsp, by simp⟩
    · rw [ht]
      exact ⟨by simp, by simp, fun _ => hsp⟩
    · rw [h0]
      exact ⟨by simp, by simp, by simp⟩

/-- Settles O15: memory lists nothing, every pixel is off and FAULT is 0. -/
theorem resetMeetsInvariant : Obligations.ResetMeetsInvariant := by
  unfold Obligations.ResetMeetsInvariant
  exact ⟨State.reset_mem_wf, fun k => .inl (FrameBuffer.blank_pixel k), by decide, by decide, by decide⟩

/-! ### Timers and the parked program -/

/-- Settles O18: the handler changes a timer only if it is the timer's own load, and the tick follows it. -/
theorem timersTickOncePerStep : Obligations.TimersTickOncePerStep := by
  unfold Obligations.TimersTickOncePerStep
  intro s t hf h h0
  obtain ⟨hne, -⟩ | ⟨-, u, hu, rfl⟩ := step_cases h
  · exact absurd hf hne
  rw [State.finish_fault] at h0
  rw [State.finish_running h0]
  obtain ⟨-, hdt, hst⟩ := writersOfIndexAndTimers _ _ _ hu
  refine ⟨fun hn => ?_, fun hn => ?_, fun x hx => ?_, fun x hx => ?_⟩
  · exact (toNat_tickTimer u.dt).trans (by rw [hdt hn]; rfl)
  · exact (toNat_tickTimer u.st).trans (by rw [hst hn]; rfl)
  · obtain rfl := Host.Outcome.next.inj ((exec_ldDtVx x _).symm.trans (hx ▸ hu))
    exact toNat_tickTimer (s.getV x)
  · obtain rfl := Host.Outcome.next.inj ((exec_ldStVx x _).symm.trans (hx ▸ hu))
    exact toNat_tickTimer (s.getV x)

/-- R92: the jump of a parked program puts PC back, so the Step is the tick alone. -/
theorem step_parked {s : State} (h : s.Parked) : step s = .next s.tick.sampleInputs := by
  obtain ⟨hf, nnn, hi, htarget⟩ := h
  have hexec : exec s.nextInstr s.advancePc = .next s := by
    rw [hi, exec_jp, htarget]
    rfl
  rw [step_running hf hexec, State.finish_running hf]

/-- Settles O17: the tick and the new inputs reach neither FAULT nor what the next Step fetches. -/
theorem parkedProgramStaysParked : Obligations.ParkedProgramStaysParked := by
  unfold Obligations.ParkedProgramStaysParked
  intro s h
  exact ⟨_, step_parked h, h, rfl, toNat_tickTimer s.dt, toNat_tickTimer s.st⟩

/-! ### Reset -/

/-- A memory that lists nothing reads as its reset contents. -/
theorem Memory.read_nil {a : Nat} (h : a < 4096) : Memory.read [] a = resetByte a :=
  congrArg (Memory.get []) (maskAddr_of_lt h)

/-- R34: outside the font the reset contents are 0. -/
theorem resetByte_outside {a : Nat} (h : a < 0x050 ∨ 0x09F < a) : resetByte a = 0 :=
  if_neg fun ⟨h1, h2⟩ => by simp only [Config.fontBase] at h1 h2; omega

/-- R35: inside it they are the font. -/
theorem resetByte_font {k : Nat} (h : k < 80) : some (resetByte (0x050 + k)) = Config.font[k]? := by
  have hlen : Config.font.length = 80 := rfl
  have hin : Config.fontBase ≤ 0x050 + k ∧ 0x050 + k < Config.fontBase + 80 := by simp only [Config.fontBase]; omega
  rw [resetByte, if_pos hin, Config.fontBase, Nat.add_sub_cancel_left, List.getElem?_eq_getElem (hlen ▸ h),
    List.getD_eq_getElem _ _ (hlen ▸ h)]

/-- Settles O16: both states are the reset state but for the inputs and the draw counter, which no clause reads. -/
theorem resetValues : Obligations.ResetValues := by
  unfold Obligations.ResetValues
  intro s r hr
  obtain ⟨key, rnd, draws, rfl⟩ : ∃ key rnd draws, r = { State.reset with key := key, rnd := rnd, draws := draws } := by
    obtain rfl | rfl := hr <;> exact ⟨_, _, _, rfl⟩
  refine ⟨rfl, fun x => ?_, rfl, rfl, fun k hk => ?_, rfl, rfl, rfl, fun k hk => ?_, fun a ha hout => ?_,
    fun k hk => ?_⟩
  · exact Vector.getElem_replicate x.isLt
  · exact Vector.getElem?_replicate.trans (if_pos hk)
  · exact Vector.getElem?_replicate.trans (if_pos hk)
  · exact (Memory.read_nil ha).trans (resetByte_outside hout)
  · exact (congrArg some (Memory.read_nil (by omega))).trans (resetByte_font hk)

end Sys2Proof.Machine
end

section
/-!
SUPPORT. Two runs compared: a handler started with another I of the same low 12 bits, other keys or another random byte,
where its instruction reads none of these, ends with the same difference. From it the proofs of
`Obligations.InputsReachOnlyTheirReaders` and `Obligations.UpperBitsOfIndexAreUnobservable` (`10_state.md` R22, R30,
R31).
-/

namespace Sys2Proof.Machine

/-- The state with another I and other inputs. -/
def State.perturb (s : State) (j key : Word) (rnd : Byte) : State := { s with i := j, key := key, rnd := rnd }

theorem State.perturb_getV (s : State) (j key : Word) (rnd : Byte) (x : Nibble) :
    (s.perturb j key rnd).getV x = s.getV x := rfl

/-- With its own inputs, the state differs in I alone. -/
theorem State.perturb_eq_setI {s : State} {key : Word} {rnd : Byte} (hk : s.key = key) (hr : s.rnd = rnd) (j : Word) :
    s.perturb j key rnd = s.setI j := by
  subst hk hr
  rfl

/-! ### The shared operations -/

/-- R51 for stores: addresses that agree in their low 12 bits are one address. -/
theorem Memory.write_congr {a a' : Nat} (h : a % 4096 = a' % 4096) (m : Memory) (b : Byte) :
    Memory.write m a b = Memory.write m a' b :=
  congrArg (m.put · b) h

theorem State.skipIf_perturb (s : State) (j key : Word) (rnd : Byte) (c : Bool) :
    (s.perturb j key rnd).skipIf c = (s.skipIf c).perturb j key rnd := by
  cases c <;> rfl

section
variable {s : State} {j : Word} (h : j.toNat % 4096 = s.i.toNat % 4096) (key : Word) (rnd : Byte)
include h

/-- R146, R51: an address formed from either I is the same 12-bit address. -/
theorem State.ea_perturb (k : Nat) : (s.perturb j key rnd).ea k % 4096 = s.ea k % 4096 := Nat.ModEq.add_right k h

theorem State.readMem_perturb (k : Nat) :
    (s.perturb j key rnd).readMem ((s.perturb j key rnd).ea k) = s.readMem (s.ea k) :=
  State.readMem_congr (State.ea_perturb h key rnd k) s

theorem State.writeMem_perturb (u : State) (k : Nat) (b : Byte) :
    (u.perturb j key rnd).writeMem ((s.perturb j key rnd).ea k) b = (u.writeMem (s.ea k) b).perturb j key rnd :=
  congrArg (fun m => { u.perturb j key rnd with mem := m }) (Memory.write_congr (State.ea_perturb h key rnd k) u.mem b)

theorem State.dumpRegs_perturb : ∀ n : Nat, (s.perturb j key rnd).dumpRegs n = (s.dumpRegs n).perturb j key rnd
  | 0 => rfl
  | n + 1 => by
    rw [State.dumpRegs, State.dumpRegs_perturb n, State.writeMem_perturb h]
    rfl

theorem State.loadRegs_perturb : ∀ n : Nat, (s.perturb j key rnd).loadRegs n = (s.loadRegs n).perturb j key rnd
  | 0 => rfl
  | n + 1 => by
    rw [State.loadRegs, State.loadRegs_perturb n, State.readMem_perturb h]
    rfl

theorem State.drawn_perturb (x0 y0 rows : Nat) : (s.perturb j key rnd).drawn x0 y0 rows = s.drawn x0 y0 rows := by
  simp only [State.drawn, State.spritePixels, State.readMem_perturb h]
  rfl

/-! ### The handlers -/

/-- A handler that does not write I ends with the difference it started with. -/
theorem exec_perturb_of_index {i : Instr} {t : State} (he : exec i s = .next t) (hi : Field.index ∉ writtenFields i)
    (hkey : ((∃ x g, i = .skp x g ∨ i = .sknp x g) ∨ ∃ x, i = .ldVxK x) → key = s.key)
    (hrnd : (∃ x kk, i = .rnd x kk) → rnd = s.rnd) :
    exec i (s.perturb j key rnd) = .next (t.perturb j key rnd) := by
  have same {u : State} (hu : exec i s = .next u) : u = t := Host.Outcome.next.inj (hu.symm.trans he)
  cases i
  case call nnn =>
    by_cases hsp : s.sp.val = 16
    · obtain rfl := same (exec_call_full hsp nnn)
      exact exec_call_full (s := s.perturb j key rnd) hsp nnn
    · obtain rfl := same (exec_call hsp nnn)
      exact exec_call (s := s.perturb j key rnd) hsp nnn
  case ret g =>
    by_cases hsp : s.sp.val = 0
    · obtain rfl := same (exec_ret_empty hsp g)
      exact exec_ret_empty (s := s.perturb j key rnd) hsp g
    · obtain rfl := same (exec_ret hsp g)
      exact exec_ret (s := s.perturb j key rnd) hsp g
  case seImm | sneImm | seReg | sneReg =>
    obtain rfl := same rfl
    exact congrArg Host.Outcome.next (s.skipIf_perturb j key rnd _)
  case skp x g | sknp x g =>
    obtain rfl := hkey (.inl ⟨x, g, by simp⟩)
    obtain rfl := same rfl
    exact congrArg Host.Outcome.next (s.skipIf_perturb j s.key rnd _)
  case ldVxK x =>
    obtain rfl := hkey (.inr ⟨x, rfl⟩)
    cases hk : s.firstKey with
    | none =>
      obtain rfl := same (exec_ldVxK_none hk x)
      exact exec_ldVxK_none (s := s.perturb j s.key rnd) hk x
    | some k =>
      obtain rfl := same (exec_ldVxK_some hk x)
      exact exec_ldVxK_some (s := s.perturb j s.key rnd) hk x
  case rnd x kk =>
    obtain rfl := hrnd ⟨x, kk, rfl⟩
    obtain rfl := same rfl
    rfl
  case drw x y n =>
    obtain rfl := same (exec_drw x y n s)
    rw [exec_drw, State.perturb_getV, State.perturb_getV, State.drawn_perturb h]
    rfl
  case ldB x =>
    obtain rfl := same (exec_ldB x s)
    rw [exec_ldB, State.writeMem_perturb h, State.writeMem_perturb h, State.writeMem_perturb h]
    rfl
  case dump x =>
    obtain rfl := same rfl
    exact congrArg Host.Outcome.next (State.dumpRegs_perturb h key rnd _)
  case load x =>
    obtain rfl := same rfl
    exact congrArg Host.Outcome.next (State.loadRegs_perturb h key rnd _)
  case ldI nnn => simp [writtenFields] at hi
  case addI x => simp [writtenFields] at hi
  case ldF x => simp [writtenFields] at hi
  all_goals
    obtain rfl := same rfl
    rfl

/-- Every handler ends with another I of the same low 12 bits, equal if it was, and with the other inputs. -/
theorem exec_perturb {i : Instr} {t : State} (he : exec i s = .next t)
    (hkey : ((∃ x g, i = .skp x g ∨ i = .sknp x g) ∨ ∃ x, i = .ldVxK x) → key = s.key)
    (hrnd : (∃ x kk, i = .rnd x kk) → rnd = s.rnd) :
    ∃ j' : Word, j'.toNat % 4096 = t.i.toNat % 4096 ∧ (j = s.i → j' = t.i) ∧
      exec i (s.perturb j key rnd) = .next (t.perturb j' key rnd) := by
  have same {u : State} (hu : exec i s = .next u) : u = t := Host.Outcome.next.inj (hu.symm.trans he)
  by_cases hi : Field.index ∈ writtenFields i
  · obtain ⟨nnn, rfl⟩ | ⟨x, rfl⟩ | ⟨x, rfl⟩ := index_written hi
    · obtain rfl := same rfl
      exact ⟨target nnn, rfl, fun _ => rfl, rfl⟩
    · obtain rfl := same (exec_addI x s)
      refine ⟨j + wide (s.getV x), ?_, fun hj => hj ▸ rfl, rfl⟩
      rw [State.setI_i, BitVec.toNat_add, BitVec.toNat_add]
      omega
    · by_cases hx : (s.getV x).toNat ≤ 15
      · obtain rfl := same (exec_ldF_digit hx)
        exact ⟨glyphAddr (s.getV x), rfl, fun _ => rfl, exec_ldF_digit (s := s.perturb j key rnd) hx⟩
      · obtain rfl := same (exec_ldF_free hx)
        exact ⟨Config.freeIndex s.draws, rfl, fun _ => rfl, exec_ldF_free (s := s.perturb j key rnd) hx⟩
  · obtain ⟨-, hkept, -⟩ := exec_frame he
    exact ⟨j, (hkept hi).symm ▸ h, fun hj => hj.trans (hkept hi).symm, exec_perturb_of_index h key rnd he hi hkey hrnd⟩

end

/-- Settles O53: with I the same, the two runs differ in the replaced input alone. -/
theorem inputsReachOnlyTheirReaders : Obligations.InputsReachOnlyTheirReaders := by
  unfold Obligations.InputsReachOnlyTheirReaders
  intro i s t key rnd h
  obtain ⟨hk, hr⟩ := exec_inputs h
  refine ⟨fun hskp hsknp hldVxK => ?_, fun hrnd => ?_⟩
  · have notReader : ¬ ((∃ x g, i = .skp x g ∨ i = .sknp x g) ∨ ∃ x, i = .ldVxK x) := by
      rintro (⟨x, g, e | e⟩ | ⟨x, e⟩)
      exacts [hskp x g e, hsknp x g e, hldVxK x e]
    obtain ⟨j, -, hj, he⟩ := exec_perturb (j := s.i) rfl key s.rnd h (fun hv => absurd hv notReader) fun _ => rfl
    rw [hj rfl] at he
    exact he.trans (by rw [← hr]; rfl)
  · obtain ⟨j, -, hj, he⟩ := exec_perturb (j := s.i) rfl s.key rnd h (fun _ => rfl)
      fun ⟨x, kk, e⟩ => absurd e (hrnd x kk)
    rw [hj rfl] at he
    exact he.trans (by rw [← hk]; rfl)

/-- The end of a Step does not look at I. -/
theorem State.finish_setI (t : State) (j : Word) : (t.setI j).finish = t.finish.setI j := by
  by_cases hf : t.fault = 0
  · rw [State.finish_running hf, State.finish_running (t := t.setI j) hf]
    rfl
  · rw [State.finish_faulted hf, State.finish_faulted (t := t.setI j) hf]

theorem State.finish_i (t : State) : t.finish.i = t.i := by
  unfold State.finish; split <;> rfl

/-- Settles O54: fetch and the end of the Step do not look at I, and the handler keeps its low 12 bits equal. -/
theorem upperBitsOfIndexAreUnobservable : Obligations.UpperBitsOfIndexAreUnobservable := by
  unfold Obligations.UpperBitsOfIndexAreUnobservable
  intro s j h t hs
  obtain ⟨hf, ht⟩ | ⟨hf, u, hu, ht⟩ := step_cases hs
  · rw [ht]
    exact ⟨s.setI j, step_frozen (s := s.setI j) hf, h, rfl⟩
  · obtain ⟨hk, hr⟩ := exec_inputs hu
    obtain ⟨j', hj', -, he⟩ := exec_perturb (s := s.advancePc) h s.key s.rnd hu (fun _ => rfl) fun _ => rfl
    have he' : exec s.nextInstr (s.setI j).advancePc = .next (u.setI j') :=
      he.trans (congrArg Host.Outcome.next (State.perturb_eq_setI hk hr j'))
    rw [ht]
    refine ⟨_, step_running (s := s.setI j) hf he', ?_, ?_⟩
    · rw [State.finish_setI, State.setI_i, State.finish_i]
      exact hj'
    · rw [State.finish_setI]
      rfl

end Sys2Proof.Machine
end
